-- ==== Sys2Proof/Word.lean ====
section
/-! DEFINITION. The two word types of the machine (`00_scope.md` R4: an 8-bit data bus, a 16-bit address bus). -/

namespace Sys2Proof

/-- A byte: the data bus, the 8-bit registers and one memory location (R4, R70). -/
abbrev Byte := BitVec 8

/-- A 16-bit word: the address bus, PC, SP, IX, IY and the register pairs (R4, R22). -/
abbrev Word := BitVec 16

end Sys2Proof
end

