-- ==== Sys2Proof/Syntax.lean ====
section
/-! DEFINITION. The abstract syntax of the 202 documented instruction forms (R2), one constructor per row of the opcode table. -/

namespace Sys2Proof

/-- The 8-bit registers an `r` field names (R104). -/
inductive Reg8 where
  | b | c | d | e | h | l | a
deriving DecidableEq, Repr

/-- The register pairs a `dd` or `ss` field names (R105). -/
inductive Pair where
  | bc | de | hl | sp
deriving DecidableEq, Repr

/-- The register pairs a `qq` field names (R106). -/
inductive StackPair where
  | bc | de | hl | af
deriving DecidableEq, Repr

/-- The register pairs a `pp` or `rr` field names (R107); `self` is the index register itself. -/
inductive IdxPair where
  | bc | de | self | sp
deriving DecidableEq, Repr

/-- The condition codes of a `cc` field (R108). -/
inductive Cond where
  | nz | z | nc | c | po | pe | p | m
deriving DecidableEq, Repr

/-- The two index registers, chosen by the prefix byte (R102). -/
inductive Idx where
  | ix | iy
deriving DecidableEq, Repr

/-- The documented instructions. `d` and `e` are displacement bytes, read as two's complement (R8); `b` is a bit number
(R109); `p` is a restart address (R114). -/
inductive Instr where
  -- 8-bit load group (`40_load8.md`)
  /-- `LD r,r'` (R141). -/
  | ldRR (r : Reg8) (r' : Reg8)
  /-- `LD r,n` (R142). -/
  | ldRN (r : Reg8) (n : Byte)
  /-- `LD r,(HL)` (R143). -/
  | ldRAtHl (r : Reg8)
  /-- `LD r,(IX+d)` (R144). -/
  | ldRAtIx (r : Reg8) (d : Byte)
  /-- `LD r,(IY+d)` (R145). -/
  | ldRAtIy (r : Reg8) (d : Byte)
  /-- `LD (HL),r` (R146). -/
  | ldAtHlR (r : Reg8)
  /-- `LD (IX+d),r` (R147). -/
  | ldAtIxR (d : Byte) (r : Reg8)
  /-- `LD (IY+d),r` (R148). -/
  | ldAtIyR (d : Byte) (r : Reg8)
  /-- `LD (HL),n` (R149). -/
  | ldAtHlN (n : Byte)
  /-- `LD (IX+d),n` (R150). -/
  | ldAtIxN (d : Byte) (n : Byte)
  /-- `LD (IY+d),n` (R151). -/
  | ldAtIyN (d : Byte) (n : Byte)
  /-- `LD A,(BC)` (R152). -/
  | ldAAtBc
  /-- `LD A,(DE)` (R153). -/
  | ldAAtDe
  /-- `LD A,(nn)` (R154). -/
  | ldAAtNn (nn : Word)
  /-- `LD (BC),A` (R155). -/
  | ldAtBcA
  /-- `LD (DE),A` (R156). -/
  | ldAtDeA
  /-- `LD (nn),A` (R157). -/
  | ldAtNnA (nn : Word)
  /-- `LD A,I` (R158). -/
  | ldAIreg
  /-- `LD A,R` (R159). -/
  | ldARreg
  /-- `LD I,A` (R160). -/
  | ldIregA
  /-- `LD R,A` (R161). -/
  | ldRregA
  -- 16-bit load group, PUSH and POP (`41_load16_stack.md`)
  /-- `LD dd,nn` (R171). -/
  | ldDdNn (dd : Pair) (nn : Word)
  /-- `LD IX,nn` (R172). -/
  | ldIxNn (nn : Word)
  /-- `LD IY,nn` (R173). -/
  | ldIyNn (nn : Word)
  /-- `LD HL,(nn)` (R174). -/
  | ldHlAtNn (nn : Word)
  /-- `LD dd,(nn)` (R175). -/
  | ldDdAtNn (dd : Pair) (nn : Word)
  /-- `LD IX,(nn)` (R176). -/
  | ldIxAtNn (nn : Word)
  /-- `LD IY,(nn)` (R177). -/
  | ldIyAtNn (nn : Word)
  /-- `LD (nn),HL` (R178). -/
  | ldAtNnHl (nn : Word)
  /-- `LD (nn),dd` (R179). -/
  | ldAtNnDd (nn : Word) (dd : Pair)
  /-- `LD (nn),IX` (R180). -/
  | ldAtNnIx (nn : Word)
  /-- `LD (nn),IY` (R181). -/
  | ldAtNnIy (nn : Word)
  /-- `LD SP,HL` (R182). -/
  | ldSpHl
  /-- `LD SP,IX` (R183). -/
  | ldSpIx
  /-- `LD SP,IY` (R184). -/
  | ldSpIy
  /-- `PUSH qq` (R185). -/
  | pushQq (qq : StackPair)
  /-- `PUSH IX` (R186). -/
  | pushIx
  /-- `PUSH IY` (R187). -/
  | pushIy
  /-- `POP qq` (R188). -/
  | popQq (qq : StackPair)
  /-- `POP IX` (R189). -/
  | popIx
  /-- `POP IY` (R190). -/
  | popIy
  -- exchange, block transfer and search group (`42_exchange_block_search.md`)
  /-- `EX DE,HL` (R200). -/
  | exDeHl
  /-- `EX AF,AF'` (R201). -/
  | exAfAf
  /-- `EXX` (R202). -/
  | exx
  /-- `EX (SP),HL` (R203). -/
  | exAtSpHl
  /-- `EX (SP),IX` (R204). -/
  | exAtSpIx
  /-- `EX (SP),IY` (R205). -/
  | exAtSpIy
  /-- `LDI` (R206). -/
  | ldi
  /-- `LDIR` (R207). -/
  | ldir
  /-- `LDD` (R208). -/
  | ldd
  /-- `LDDR` (R209). -/
  | lddr
  /-- `CPI` (R210). -/
  | cpi
  /-- `CPIR` (R211). -/
  | cpir
  /-- `CPD` (R212). -/
  | cpd
  /-- `CPDR` (R213). -/
  | cpdr
  -- 8-bit arithmetic group (`43_alu8.md`)
  /-- `ADD A,r` (R225). -/
  | addAR (r : Reg8)
  /-- `ADD A,n` (R226). -/
  | addAN (n : Byte)
  /-- `ADD A,(HL)` (R227). -/
  | addAAtHl
  /-- `ADD A,(IX+d)` (R228). -/
  | addAAtIx (d : Byte)
  /-- `ADD A,(IY+d)` (R229). -/
  | addAAtIy (d : Byte)
  /-- `ADC A,r` (R230). -/
  | adcAR (r : Reg8)
  /-- `ADC A,n` (R231). -/
  | adcAN (n : Byte)
  /-- `ADC A,(HL)` (R232). -/
  | adcAAtHl
  /-- `ADC A,(IX+d)` (R233). -/
  | adcAAtIx (d : Byte)
  /-- `ADC A,(IY+d)` (R234). -/
  | adcAAtIy (d : Byte)
  /-- `SUB r` (R235). -/
  | subR (r : Reg8)
  /-- `SUB n` (R236). -/
  | subN (n : Byte)
  /-- `SUB (HL)` (R237). -/
  | subAtHl
  /-- `SUB (IX+d)` (R238). -/
  | subAtIx (d : Byte)
  /-- `SUB (IY+d)` (R239). -/
  | subAtIy (d : Byte)
  /-- `SBC A,r` (R240). -/
  | sbcAR (r : Reg8)
  /-- `SBC A,n` (R241). -/
  | sbcAN (n : Byte)
  /-- `SBC A,(HL)` (R242). -/
  | sbcAAtHl
  /-- `SBC A,(IX+d)` (R243). -/
  | sbcAAtIx (d : Byte)
  /-- `SBC A,(IY+d)` (R244). -/
  | sbcAAtIy (d : Byte)
  -- 8-bit logic, compare, increment and decrement (`43_alu8_logic_incdec.md`)
  /-- `AND r` (R245). -/
  | andR (r : Reg8)
  /-- `AND n` (R246). -/
  | andN (n : Byte)
  /-- `AND (HL)` (R247). -/
  | andAtHl
  /-- `AND (IX+d)` (R248). -/
  | andAtIx (d : Byte)
  /-- `AND (IY+d)` (R249). -/
  | andAtIy (d : Byte)
  /-- `XOR r` (R250). -/
  | xorR (r : Reg8)
  /-- `XOR n` (R251). -/
  | xorN (n : Byte)
  /-- `XOR (HL)` (R252). -/
  | xorAtHl
  /-- `XOR (IX+d)` (R253). -/
  | xorAtIx (d : Byte)
  /-- `XOR (IY+d)` (R254). -/
  | xorAtIy (d : Byte)
  /-- `OR r` (R255). -/
  | orR (r : Reg8)
  /-- `OR n` (R256). -/
  | orN (n : Byte)
  /-- `OR (HL)` (R257). -/
  | orAtHl
  /-- `OR (IX+d)` (R258). -/
  | orAtIx (d : Byte)
  /-- `OR (IY+d)` (R259). -/
  | orAtIy (d : Byte)
  /-- `CP r` (R260). -/
  | cpR (r : Reg8)
  /-- `CP n` (R261). -/
  | cpN (n : Byte)
  /-- `CP (HL)` (R262). -/
  | cpAtHl
  /-- `CP (IX+d)` (R263). -/
  | cpAtIx (d : Byte)
  /-- `CP (IY+d)` (R264). -/
  | cpAtIy (d : Byte)
  /-- `INC r` (R265). -/
  | incR (r : Reg8)
  /-- `INC (HL)` (R266). -/
  | incAtHl
  /-- `INC (IX+d)` (R267). -/
  | incAtIx (d : Byte)
  /-- `INC (IY+d)` (R268). -/
  | incAtIy (d : Byte)
  /-- `DEC r` (R269). -/
  | decR (r : Reg8)
  /-- `DEC (HL)` (R270). -/
  | decAtHl
  /-- `DEC (IX+d)` (R271). -/
  | decAtIx (d : Byte)
  /-- `DEC (IY+d)` (R272). -/
  | decAtIy (d : Byte)
  -- 16-bit arithmetic group (`44_arith16.md`)
  /-- `ADD HL,ss` (R283). -/
  | addHlSs (ss : Pair)
  /-- `ADC HL,ss` (R284). -/
  | adcHlSs (ss : Pair)
  /-- `SBC HL,ss` (R285). -/
  | sbcHlSs (ss : Pair)
  /-- `ADD IX,pp` (R286). -/
  | addIxPp (pp : IdxPair)
  /-- `ADD IY,rr` (R287). -/
  | addIyRr (rr : IdxPair)
  /-- `INC ss` (R288). -/
  | incSs (ss : Pair)
  /-- `INC IX` (R289). -/
  | incIx
  /-- `INC IY` (R290). -/
  | incIy
  /-- `DEC ss` (R291). -/
  | decSs (ss : Pair)
  /-- `DEC IX` (R292). -/
  | decIx
  /-- `DEC IY` (R293). -/
  | decIy
  -- general-purpose arithmetic and CPU control (`45_general_cpu_control.md`)
  /-- `DAA` (R300). -/
  | daa
  /-- `CPL` (R301). -/
  | cpl
  /-- `NEG` (R302). -/
  | neg
  /-- `CCF` (R303). -/
  | ccf
  /-- `SCF` (R304). -/
  | scf
  /-- `NOP` (R305). -/
  | nop
  /-- `HALT` (R306). -/
  | halt
  /-- `DI` (R307). -/
  | di
  /-- `EI` (R308). -/
  | ei
  /-- `IM 0` (R309). -/
  | im0
  /-- `IM 1` (R310). -/
  | im1
  /-- `IM 2` (R311). -/
  | im2
  -- rotate group (`46_rotate_shift.md`)
  /-- `RLCA` (R321). -/
  | rlca
  /-- `RLA` (R322). -/
  | rla
  /-- `RRCA` (R323). -/
  | rrca
  /-- `RRA` (R324). -/
  | rra
  /-- `RLC r` (R325). -/
  | rlcR (r : Reg8)
  /-- `RLC (HL)` (R326). -/
  | rlcAtHl
  /-- `RLC (IX+d)` (R327). -/
  | rlcAtIx (d : Byte)
  /-- `RLC (IY+d)` (R328). -/
  | rlcAtIy (d : Byte)
  /-- `RL r` (R329). -/
  | rlR (r : Reg8)
  /-- `RL (HL)` (R330). -/
  | rlAtHl
  /-- `RL (IX+d)` (R331). -/
  | rlAtIx (d : Byte)
  /-- `RL (IY+d)` (R332). -/
  | rlAtIy (d : Byte)
  /-- `RRC r` (R333). -/
  | rrcR (r : Reg8)
  /-- `RRC (HL)` (R334). -/
  | rrcAtHl
  /-- `RRC (IX+d)` (R335). -/
  | rrcAtIx (d : Byte)
  /-- `RRC (IY+d)` (R336). -/
  | rrcAtIy (d : Byte)
  /-- `RR r` (R337). -/
  | rrR (r : Reg8)
  /-- `RR (HL)` (R338). -/
  | rrAtHl
  /-- `RR (IX+d)` (R339). -/
  | rrAtIx (d : Byte)
  /-- `RR (IY+d)` (R340). -/
  | rrAtIy (d : Byte)
  -- shift and digit-rotate group (`46_shift_digit.md`)
  /-- `SLA r` (R341). -/
  | slaR (r : Reg8)
  /-- `SLA (HL)` (R342). -/
  | slaAtHl
  /-- `SLA (IX+d)` (R343). -/
  | slaAtIx (d : Byte)
  /-- `SLA (IY+d)` (R344). -/
  | slaAtIy (d : Byte)
  /-- `SRA r` (R345). -/
  | sraR (r : Reg8)
  /-- `SRA (HL)` (R346). -/
  | sraAtHl
  /-- `SRA (IX+d)` (R347). -/
  | sraAtIx (d : Byte)
  /-- `SRA (IY+d)` (R348). -/
  | sraAtIy (d : Byte)
  /-- `SRL r` (R349). -/
  | srlR (r : Reg8)
  /-- `SRL (HL)` (R350). -/
  | srlAtHl
  /-- `SRL (IX+d)` (R351). -/
  | srlAtIx (d : Byte)
  /-- `SRL (IY+d)` (R352). -/
  | srlAtIy (d : Byte)
  /-- `RLD` (R353). -/
  | rld
  /-- `RRD` (R354). -/
  | rrd
  -- bit group (`47_bit.md`)
  /-- `BIT b,r` (R360). -/
  | bitR (b : Nat) (r : Reg8)
  /-- `BIT b,(HL)` (R361). -/
  | bitAtHl (b : Nat)
  /-- `BIT b,(IX+d)` (R362). -/
  | bitAtIx (b : Nat) (d : Byte)
  /-- `BIT b,(IY+d)` (R363). -/
  | bitAtIy (b : Nat) (d : Byte)
  /-- `SET b,r` (R364). -/
  | setR (b : Nat) (r : Reg8)
  /-- `SET b,(HL)` (R365). -/
  | setAtHl (b : Nat)
  /-- `SET b,(IX+d)` (R366). -/
  | setAtIx (b : Nat) (d : Byte)
  /-- `SET b,(IY+d)` (R367). -/
  | setAtIy (b : Nat) (d : Byte)
  /-- `RES b,r` (R368). -/
  | resR (b : Nat) (r : Reg8)
  /-- `RES b,(HL)` (R369). -/
  | resAtHl (b : Nat)
  /-- `RES b,(IX+d)` (R370). -/
  | resAtIx (b : Nat) (d : Byte)
  /-- `RES b,(IY+d)` (R371). -/
  | resAtIy (b : Nat) (d : Byte)
  -- input and output group (`48_io.md`)
  /-- `IN A,(n)` (R380). -/
  | inAN (n : Byte)
  /-- `IN r,(C)` (R381). -/
  | inRC (r : Reg8)
  /-- `INI` (R382). -/
  | ini
  /-- `INIR` (R383). -/
  | inir
  /-- `IND` (R384). -/
  | ind
  /-- `INDR` (R385). -/
  | indr
  /-- `OUT (n),A` (R386). -/
  | outNA (n : Byte)
  /-- `OUT (C),r` (R387). -/
  | outCR (r : Reg8)
  /-- `OUTI` (R388). -/
  | outi
  /-- `OTIR` (R389). -/
  | otir
  /-- `OUTD` (R390). -/
  | outd
  /-- `OTDR` (R391). -/
  | otdr
  -- jump, call and return groups (`49_jump_call_return.md`)
  /-- `JP nn` (R400). -/
  | jpNn (nn : Word)
  /-- `JP cc,nn` (R401). -/
  | jpCcNn (cc : Cond) (nn : Word)
  /-- `JR e` (R402). -/
  | jrE (e : Byte)
  /-- `JR C,e` (R403). -/
  | jrCE (e : Byte)
  /-- `JR NC,e` (R404). -/
  | jrNcE (e : Byte)
  /-- `JR Z,e` (R405). -/
  | jrZE (e : Byte)
  /-- `JR NZ,e` (R406). -/
  | jrNzE (e : Byte)
  /-- `JP (HL)` (R407). -/
  | jpHl
  /-- `JP (IX)` (R408). -/
  | jpIx
  /-- `JP (IY)` (R409). -/
  | jpIy
  /-- `DJNZ e` (R410). -/
  | djnzE (e : Byte)
  /-- `CALL nn` (R411). -/
  | callNn (nn : Word)
  /-- `CALL cc,nn` (R412). -/
  | callCcNn (cc : Cond) (nn : Word)
  /-- `RET` (R413). -/
  | ret
  /-- `RET cc` (R414). -/
  | retCc (cc : Cond)
  /-- `RETI` (R415). -/
  | reti
  /-- `RETN` (R416). -/
  | retn
  /-- `RST p` (R417). -/
  | rstP (p : Byte)
deriving DecidableEq, Repr

end Sys2Proof
end

