-- ==== Sys2Proof/WellFormed.lean ====
section
/-! DEFINITION. Which terms of `Instr` are instructions: every operand fits the field that encodes it (R100, R109). -/

namespace Sys2Proof

/-- A bit number fits the 3-bit field `b` (R109). -/
def bitNumberOk (b : Nat) : Bool := decide (b < 8)

/-- A restart address is one of 00H, 08H, ..., 38H (R109, R114). -/
def restartOk (p : Byte) : Bool := p &&& 0xC7#8 == 0#8

/-- Every operand of the instruction fits its field; all other operand types fit theirs by construction. -/
def Instr.wellFormed : Instr → Bool
  | .ldRR _ _ | .ldRN _ _ | .ldRAtHl _ | .ldRAtIx _ _ | .ldRAtIy _ _ | .ldAtHlR _ | .ldAtIxR _ _ | .ldAtIyR _ _
  | .ldAtHlN _ | .ldAtIxN _ _ | .ldAtIyN _ _ | .ldAAtBc | .ldAAtDe | .ldAAtNn _ | .ldAtBcA | .ldAtDeA
  | .ldAtNnA _ | .ldAIreg | .ldARreg | .ldIregA | .ldRregA | .ldDdNn _ _ | .ldIxNn _ | .ldIyNn _ | .ldHlAtNn _
  | .ldDdAtNn _ _ | .ldIxAtNn _ | .ldIyAtNn _ | .ldAtNnHl _ | .ldAtNnDd _ _ | .ldAtNnIx _ | .ldAtNnIy _
  | .ldSpHl | .ldSpIx | .ldSpIy | .pushQq _ | .pushIx | .pushIy | .popQq _ | .popIx | .popIy | .exDeHl | .exAfAf
  | .exx | .exAtSpHl | .exAtSpIx | .exAtSpIy | .ldi | .ldir | .ldd | .lddr | .cpi | .cpir | .cpd | .cpdr
  | .addAR _ | .addAN _ | .addAAtHl | .addAAtIx _ | .addAAtIy _ | .adcAR _ | .adcAN _ | .adcAAtHl | .adcAAtIx _
  | .adcAAtIy _ | .subR _ | .subN _ | .subAtHl | .subAtIx _ | .subAtIy _ | .sbcAR _ | .sbcAN _ | .sbcAAtHl
  | .sbcAAtIx _ | .sbcAAtIy _ | .andR _ | .andN _ | .andAtHl | .andAtIx _ | .andAtIy _ | .xorR _ | .xorN _
  | .xorAtHl | .xorAtIx _ | .xorAtIy _ | .orR _ | .orN _ | .orAtHl | .orAtIx _ | .orAtIy _ | .cpR _ | .cpN _
  | .cpAtHl | .cpAtIx _ | .cpAtIy _ | .incR _ | .incAtHl | .incAtIx _ | .incAtIy _ | .decR _ | .decAtHl
  | .decAtIx _ | .decAtIy _ | .addHlSs _ | .adcHlSs _ | .sbcHlSs _ | .addIxPp _ | .addIyRr _ | .incSs _ | .incIx
  | .incIy | .decSs _ | .decIx | .decIy | .daa | .cpl | .neg | .ccf | .scf | .nop | .halt | .di | .ei | .im0
  | .im1 | .im2 | .rlca | .rla | .rrca | .rra | .rlcR _ | .rlcAtHl | .rlcAtIx _ | .rlcAtIy _ | .rlR _ | .rlAtHl
  | .rlAtIx _ | .rlAtIy _ | .rrcR _ | .rrcAtHl | .rrcAtIx _ | .rrcAtIy _ | .rrR _ | .rrAtHl | .rrAtIx _
  | .rrAtIy _ | .slaR _ | .slaAtHl | .slaAtIx _ | .slaAtIy _ | .sraR _ | .sraAtHl | .sraAtIx _ | .sraAtIy _
  | .srlR _ | .srlAtHl | .srlAtIx _ | .srlAtIy _ | .rld | .rrd | .inAN _ | .inRC _ | .ini | .inir | .ind | .indr
  | .outNA _ | .outCR _ | .outi | .otir | .outd | .otdr | .jpNn _ | .jpCcNn _ _ | .jrE _ | .jrCE _ | .jrNcE _
  | .jrZE _ | .jrNzE _ | .jpHl | .jpIx | .jpIy | .djnzE _ | .callNn _ | .callCcNn _ _ | .ret | .retCc _ | .reti
  | .retn => true
  | .bitR b _ => bitNumberOk b
  | .bitAtHl b => bitNumberOk b
  | .bitAtIx b _ => bitNumberOk b
  | .bitAtIy b _ => bitNumberOk b
  | .setR b _ => bitNumberOk b
  | .setAtHl b => bitNumberOk b
  | .setAtIx b _ => bitNumberOk b
  | .setAtIy b _ => bitNumberOk b
  | .resR b _ => bitNumberOk b
  | .resAtHl b => bitNumberOk b
  | .resAtIx b _ => bitNumberOk b
  | .resAtIy b _ => bitNumberOk b
  | .rstP p => restartOk p

end Sys2Proof
end

