-- ==== Sys2Proof/Decode.lean ====
section
/-! DEFINITION. The decoder, total on any bytes and refusing by name, and the encoder, both from the opcode maps R121 to R125. -/

namespace Sys2Proof

/-- `cat(h, l)` of two bytes: the word with high byte `h` and low byte `l` (R7, R22). -/
def wordOf (h l : Byte) : Word := h ++ l

/-- `hi(v)`: bits 15 to 8 (R7). -/
def hiByte (v : Word) : Byte := v.extractLsb' 8 8

/-- `lo(v)`: bits 7 to 0 (R7). -/
def loByte (v : Word) : Byte := v.extractLsb' 0 8

/-- `sext_16(v)`: the byte read as two's complement, widened to 16 bits (R7, R8). -/
def sext16 (v : Byte) : Word := v.signExtend 16

/-- What the bytes fetched so far select (R128). -/
inductive DecodeResult where
  /-- A documented instruction of `len` bytes. -/
  | ok (i : Instr) (len : Nat)
  /-- A documented instruction needs at least one more byte. -/
  | more
  /-- No documented instruction begins with these bytes (R126). -/
  | undocumented
deriving DecidableEq, Repr

/-- Register code r (R104); 110 is no register. -/
def regOf : Nat → Option Reg8
  | 0 => some .b | 1 => some .c | 2 => some .d | 3 => some .e
  | 4 => some .h | 5 => some .l | 7 => some .a | _ => none

/-- Register pair code dd, ss (R105). -/
def pairOf : Nat → Pair
  | 0 => .bc | 1 => .de | 2 => .hl | _ => .sp

/-- Register pair code qq (R106). -/
def stackPairOf : Nat → StackPair
  | 0 => .bc | 1 => .de | 2 => .hl | _ => .af

/-- Register pair codes pp, rr (R107). -/
def idxPairOf : Nat → IdxPair
  | 0 => .bc | 1 => .de | 2 => .self | _ => .sp

/-- Condition code cc (R108). -/
def condOf : Nat → Cond
  | 0 => .nz | 1 => .z | 2 => .nc | 3 => .c | 4 => .po | 5 => .pe | 6 => .p | _ => .m

/-- The first of two instructions behind DDH, the second behind FDH (R102). -/
def Idx.pick (k : Idx) (onIx onIy : Instr) : Instr :=
  match k with
  | .ix => onIx
  | .iy => onIy

/-- An instruction with one operand byte after the bytes already read (R110, R112, R115). -/
def withByte (rest : List Byte) (len : Nat) (k : Byte → Instr) : DecodeResult :=
  match rest with
  | n :: _ => .ok (k n) len
  | [] => .more

/-- An instruction with a 16-bit operand, low byte first (R111, R113). -/
def withWord (rest : List Byte) (len : Nat) (k : Word → Instr) : DecodeResult :=
  match rest with
  | l :: h :: _ => .ok (k (wordOf h l)) len
  | _ => .more

/-- A register form at codes 000 to 101 and 111, the memory form at code 110 (R104). -/
def regOrMem (code len : Nat) (onReg : Reg8 → Instr) (onMem : Instr) : DecodeResult :=
  match regOf code with
  | some r => .ok (onReg r) len
  | none => .ok onMem len

/-- The eight accumulator operations on a register (R224): the field ooo. -/
def aluReg (ooo : Nat) (r : Reg8) : Instr :=
  match ooo with
  | 0 => .addAR r | 1 => .adcAR r | 2 => .subR r | 3 => .sbcAR r
  | 4 => .andR r | 5 => .xorR r | 6 => .orR r | _ => .cpR r

/-- The eight accumulator operations on (HL) (R224). -/
def aluAtHl (ooo : Nat) : Instr :=
  match ooo with
  | 0 => .addAAtHl | 1 => .adcAAtHl | 2 => .subAtHl | 3 => .sbcAAtHl
  | 4 => .andAtHl | 5 => .xorAtHl | 6 => .orAtHl | _ => .cpAtHl

/-- The eight accumulator operations on an immediate byte (R224). -/
def aluImm (ooo : Nat) (n : Byte) : Instr :=
  match ooo with
  | 0 => .addAN n | 1 => .adcAN n | 2 => .subN n | 3 => .sbcAN n
  | 4 => .andN n | 5 => .xorN n | 6 => .orN n | _ => .cpN n

/-- The eight accumulator operations on (IX+d) or (IY+d) (R224). -/
def aluIdx (k : Idx) (ooo : Nat) (d : Byte) : Instr :=
  match ooo with
  | 0 => k.pick (.addAAtIx d) (.addAAtIy d)
  | 1 => k.pick (.adcAAtIx d) (.adcAAtIy d)
  | 2 => k.pick (.subAtIx d) (.subAtIy d)
  | 3 => k.pick (.sbcAAtIx d) (.sbcAAtIy d)
  | 4 => k.pick (.andAtIx d) (.andAtIy d)
  | 5 => k.pick (.xorAtIx d) (.xorAtIy d)
  | 6 => k.pick (.orAtIx d) (.orAtIy d)
  | _ => k.pick (.cpAtIx d) (.cpAtIy d)

/-- The rotate and shift operations on a register (R122, R320); ooo = 110 is not documented. -/
def rotReg (ooo : Nat) (r : Reg8) : Option Instr :=
  match ooo with
  | 0 => some (.rlcR r) | 1 => some (.rrcR r) | 2 => some (.rlR r) | 3 => some (.rrR r)
  | 4 => some (.slaR r) | 5 => some (.sraR r) | 7 => some (.srlR r) | _ => none

/-- The rotate and shift operations on (HL) (R122). -/
def rotAtHl (ooo : Nat) : Option Instr :=
  match ooo with
  | 0 => some .rlcAtHl | 1 => some .rrcAtHl | 2 => some .rlAtHl | 3 => some .rrAtHl
  | 4 => some .slaAtHl | 5 => some .sraAtHl | 7 => some .srlAtHl | _ => none

/-- The rotate and shift operations on (IX+d) or (IY+d) (R125). -/
def rotIdx (k : Idx) (ooo : Nat) (d : Byte) : Option Instr :=
  match ooo with
  | 0 => some (k.pick (.rlcAtIx d) (.rlcAtIy d))
  | 1 => some (k.pick (.rrcAtIx d) (.rrcAtIy d))
  | 2 => some (k.pick (.rlAtIx d) (.rlAtIy d))
  | 3 => some (k.pick (.rrAtIx d) (.rrAtIy d))
  | 4 => some (k.pick (.slaAtIx d) (.slaAtIy d))
  | 5 => some (k.pick (.sraAtIx d) (.sraAtIy d))
  | 7 => some (k.pick (.srlAtIx d) (.srlAtIy d))
  | _ => none

/-- A documented instruction of `len` bytes, or none (R126). -/
def orUndocumented (len : Nat) : Option Instr → DecodeResult
  | some i => .ok i len
  | none => .undocumented

/-- First bytes 00H to 3FH (R121), by bits 5 to 3 and bits 2 to 0. -/
def decodeLow (y z : Nat) (rest : List Byte) : DecodeResult :=
  match z with
  | 0 =>
    match y with
    | 0 => .ok .nop 1
    | 1 => .ok .exAfAf 1
    | 2 => withByte rest 2 .djnzE
    | 3 => withByte rest 2 .jrE
    | 4 => withByte rest 2 .jrNzE
    | 5 => withByte rest 2 .jrZE
    | 6 => withByte rest 2 .jrNcE
    | _ => withByte rest 2 .jrCE
  | 1 => if y % 2 = 0 then withWord rest 3 (.ldDdNn (pairOf (y / 2))) else .ok (.addHlSs (pairOf (y / 2))) 1
  | 2 =>
    match y with
    | 0 => .ok .ldAtBcA 1
    | 1 => .ok .ldAAtBc 1
    | 2 => .ok .ldAtDeA 1
    | 3 => .ok .ldAAtDe 1
    | 4 => withWord rest 3 .ldAtNnHl
    | 5 => withWord rest 3 .ldHlAtNn
    | 6 => withWord rest 3 .ldAtNnA
    | _ => withWord rest 3 .ldAAtNn
  | 3 => if y % 2 = 0 then .ok (.incSs (pairOf (y / 2))) 1 else .ok (.decSs (pairOf (y / 2))) 1
  | 4 => regOrMem y 1 .incR .incAtHl
  | 5 => regOrMem y 1 .decR .decAtHl
  | 6 =>
    match regOf y with
    | some r => withByte rest 2 (.ldRN r)
    | none => withByte rest 2 .ldAtHlN
  | _ =>
    match y with
    | 0 => .ok .rlca 1
    | 1 => .ok .rrca 1
    | 2 => .ok .rla 1
    | 3 => .ok .rra 1
    | 4 => .ok .daa 1
    | 5 => .ok .cpl 1
    | 6 => .ok .scf 1
    | _ => .ok .ccf 1

/-- First bytes 40H to 7FH (R121): `LD r,r'`, the (HL) forms at code 110, and 76H = HALT. -/
def decodeLoad (y z : Nat) : DecodeResult :=
  match regOf y, regOf z with
  | some r, some r' => .ok (.ldRR r r') 1
  | some r, none => .ok (.ldRAtHl r) 1
  | none, some r => .ok (.ldAtHlR r) 1
  | none, none => .ok .halt 1

/-- First bytes C0H to FFH other than the four prefixes (R121). -/
def decodeHigh (y z : Nat) (rest : List Byte) : DecodeResult :=
  match z with
  | 0 => .ok (.retCc (condOf y)) 1
  | 1 =>
    match y with
    | 1 => .ok .ret 1
    | 3 => .ok .exx 1
    | 5 => .ok .jpHl 1
    | 7 => .ok .ldSpHl 1
    | _ => .ok (.popQq (stackPairOf (y / 2))) 1
  | 2 => withWord rest 3 (.jpCcNn (condOf y))
  | 3 =>
    match y with
    | 0 => withWord rest 3 .jpNn
    | 2 => withByte rest 2 .outNA
    | 3 => withByte rest 2 .inAN
    | 4 => .ok .exAtSpHl 1
    | 5 => .ok .exDeHl 1
    | 6 => .ok .di 1
    | 7 => .ok .ei 1
    | _ => .undocumented
  | 4 => withWord rest 3 (.callCcNn (condOf y))
  | 5 =>
    match y with
    | 1 => withWord rest 3 .callNn
    | 0 => .ok (.pushQq .bc) 1
    | 2 => .ok (.pushQq .de) 1
    | 4 => .ok (.pushQq .hl) 1
    | 6 => .ok (.pushQq .af) 1
    | _ => .undocumented
  | 6 => withByte rest 2 (aluImm y)
  | _ => .ok (.rstP (BitVec.ofNat 8 (8 * y))) 1

/-- An instruction without prefix (R121). -/
def decodePlain (op : Nat) (rest : List Byte) : DecodeResult :=
  match op / 64 with
  | 0 => decodeLow (op / 8 % 8) (op % 8) rest
  | 1 => decodeLoad (op / 8 % 8) (op % 8)
  | 2 => regOrMem (op % 8) 1 (aluReg (op / 8 % 8)) (aluAtHl (op / 8 % 8))
  | _ => decodeHigh (op / 8 % 8) (op % 8) rest

/-- The second byte after CBH (R122). -/
def decodeCb (op : Nat) : DecodeResult :=
  match op / 64 with
  | 0 =>
    match regOf (op % 8) with
    | some r => orUndocumented 2 (rotReg (op / 8 % 8) r)
    | none => orUndocumented 2 (rotAtHl (op / 8 % 8))
  | 1 => regOrMem (op % 8) 2 (.bitR (op / 8 % 8)) (.bitAtHl (op / 8 % 8))
  | 2 => regOrMem (op % 8) 2 (.resR (op / 8 % 8)) (.resAtHl (op / 8 % 8))
  | _ => regOrMem (op % 8) 2 (.setR (op / 8 % 8)) (.setAtHl (op / 8 % 8))

/-- Second bytes 40H to 7FH after EDH (R123). -/
def decodeEdMid (y z : Nat) (rest : List Byte) : DecodeResult :=
  match z with
  | 0 => orUndocumented 2 ((regOf y).map .inRC)
  | 1 => orUndocumented 2 ((regOf y).map .outCR)
  | 2 => if y % 2 = 0 then .ok (.sbcHlSs (pairOf (y / 2))) 2 else .ok (.adcHlSs (pairOf (y / 2))) 2
  | 3 =>
    if y % 2 = 0 then withWord rest 4 (fun nn => .ldAtNnDd nn (pairOf (y / 2)))
    else withWord rest 4 (.ldDdAtNn (pairOf (y / 2)))
  | 4 => if y = 0 then .ok .neg 2 else .undocumented
  | 5 =>
    match y with
    | 0 => .ok .retn 2
    | 1 => .ok .reti 2
    | _ => .undocumented
  | 6 =>
    match y with
    | 0 => .ok .im0 2
    | 2 => .ok .im1 2
    | 3 => .ok .im2 2
    | _ => .undocumented
  | _ =>
    match y with
    | 0 => .ok .ldIregA 2
    | 1 => .ok .ldRregA 2
    | 2 => .ok .ldAIreg 2
    | 3 => .ok .ldARreg 2
    | 4 => .ok .rrd 2
    | 5 => .ok .rld 2
    | _ => .undocumented

/-- Second bytes A0H to BBH after EDH: the block instructions (R123). -/
def decodeEdBlock (y z : Nat) : DecodeResult :=
  match y, z with
  | 4, 0 => .ok .ldi 2
  | 4, 1 => .ok .cpi 2
  | 4, 2 => .ok .ini 2
  | 4, 3 => .ok .outi 2
  | 5, 0 => .ok .ldd 2
  | 5, 1 => .ok .cpd 2
  | 5, 2 => .ok .ind 2
  | 5, 3 => .ok .outd 2
  | 6, 0 => .ok .ldir 2
  | 6, 1 => .ok .cpir 2
  | 6, 2 => .ok .inir 2
  | 6, 3 => .ok .otir 2
  | 7, 0 => .ok .lddr 2
  | 7, 1 => .ok .cpdr 2
  | 7, 2 => .ok .indr 2
  | 7, 3 => .ok .otdr 2
  | _, _ => .undocumented

/-- The second byte after EDH (R123). -/
def decodeEd (op : Nat) (rest : List Byte) : DecodeResult :=
  match op / 64 with
  | 1 => decodeEdMid (op / 8 % 8) (op % 8) rest
  | 2 => decodeEdBlock (op / 8 % 8) (op % 8)
  | _ => .undocumented

/-- The fourth byte after DD CB d or FD CB d (R103, R125). -/
def decodeIdxCb (k : Idx) (d : Byte) (op : Nat) : DecodeResult :=
  if op % 8 = 6 then
    match op / 64 with
    | 0 => orUndocumented 4 (rotIdx k (op / 8 % 8) d)
    | 1 => .ok (k.pick (.bitAtIx (op / 8 % 8) d) (.bitAtIy (op / 8 % 8) d)) 4
    | 2 => .ok (k.pick (.resAtIx (op / 8 % 8) d) (.resAtIy (op / 8 % 8) d)) 4
    | _ => .ok (k.pick (.setAtIx (op / 8 % 8) d) (.setAtIy (op / 8 % 8) d)) 4
  else .undocumented

/-- Second bytes 40H to 7FH after DDH or FDH: the indexed loads (R124). -/
def decodeIdxLoad (k : Idx) (y z : Nat) (rest : List Byte) : DecodeResult :=
  match regOf y, regOf z with
  | some r, none => withByte rest 3 (fun d => k.pick (.ldRAtIx r d) (.ldRAtIy r d))
  | none, some r => withByte rest 3 (fun d => k.pick (.ldAtIxR d r) (.ldAtIyR d r))
  | _, _ => .undocumented

/-- The second byte after DDH or FDH, other than CBH and 40H to BFH (R124). -/
def decodeIdxOther (k : Idx) (op : Nat) (rest : List Byte) : DecodeResult :=
  match op with
  | 0x09 => .ok (k.pick (.addIxPp .bc) (.addIyRr .bc)) 2
  | 0x19 => .ok (k.pick (.addIxPp .de) (.addIyRr .de)) 2
  | 0x29 => .ok (k.pick (.addIxPp .self) (.addIyRr .self)) 2
  | 0x39 => .ok (k.pick (.addIxPp .sp) (.addIyRr .sp)) 2
  | 0x21 => withWord rest 4 (fun nn => k.pick (.ldIxNn nn) (.ldIyNn nn))
  | 0x22 => withWord rest 4 (fun nn => k.pick (.ldAtNnIx nn) (.ldAtNnIy nn))
  | 0x23 => .ok (k.pick .incIx .incIy) 2
  | 0x2A => withWord rest 4 (fun nn => k.pick (.ldIxAtNn nn) (.ldIyAtNn nn))
  | 0x2B => .ok (k.pick .decIx .decIy) 2
  | 0x34 => withByte rest 3 (fun d => k.pick (.incAtIx d) (.incAtIy d))
  | 0x35 => withByte rest 3 (fun d => k.pick (.decAtIx d) (.decAtIy d))
  | 0x36 =>
    match rest with
    | d :: n :: _ => .ok (k.pick (.ldAtIxN d n) (.ldAtIyN d n)) 4
    | _ => .more
  | 0xE1 => .ok (k.pick .popIx .popIy) 2
  | 0xE3 => .ok (k.pick .exAtSpIx .exAtSpIy) 2
  | 0xE5 => .ok (k.pick .pushIx .pushIy) 2
  | 0xE9 => .ok (k.pick .jpIx .jpIy) 2
  | 0xF9 => .ok (k.pick .ldSpIx .ldSpIy) 2
  | _ => .undocumented

/-- The bytes after DDH or FDH (R102, R103, R124, R125). -/
def decodeIdx (k : Idx) (op : Nat) (rest : List Byte) : DecodeResult :=
  if op = 0xCB then
    match rest with
    | d :: op4 :: _ => decodeIdxCb k d op4.toNat
    | _ => .more
  else
    match op / 64 with
    | 1 => decodeIdxLoad k (op / 8 % 8) (op % 8) rest
    | 2 => if op % 8 = 6 then withByte rest 3 (aluIdx k (op / 8 % 8)) else .undocumented
    | _ => decodeIdxOther k op rest

/-- The byte is one of the four prefixes (R102). -/
def isPrefixByte (op : Byte) : Bool :=
  op == 0xCB#8 || op == 0xED#8 || op == 0xDD#8 || op == 0xFD#8

/-- Decoding of a prefixed instruction from its second byte on (R102, R122 to R125). -/
def decodePrefixed (pre op : Byte) (rest : List Byte) : DecodeResult :=
  if pre = 0xCB#8 then decodeCb op.toNat
  else if pre = 0xED#8 then decodeEd op.toNat rest
  else if pre = 0xDD#8 then decodeIdx .ix op.toNat rest
  else decodeIdx .iy op.toNat rest

/-- The instruction that the bytes, in fetch order, begin with (R100, R128). Bytes after the last one needed are not looked
at: the answer is already `ok` without them. -/
def decodeBytes : List Byte → DecodeResult
  | [] => .more
  | op :: rest =>
    if isPrefixByte op then
      match rest with
      | [] => .more
      | op2 :: rest2 => decodePrefixed op op2 rest2
    else decodePlain op.toNat rest

/-! The encoder. -/

/-- Code r of a register (R104). -/
def Reg8.code : Reg8 → Nat
  | .b => 0 | .c => 1 | .d => 2 | .e => 3 | .h => 4 | .l => 5 | .a => 7

/-- Code dd or ss of a pair (R105). -/
def Pair.code : Pair → Nat
  | .bc => 0 | .de => 1 | .hl => 2 | .sp => 3

/-- Code qq of a pair (R106). -/
def StackPair.code : StackPair → Nat
  | .bc => 0 | .de => 1 | .hl => 2 | .af => 3

/-- Code pp or rr of a pair (R107). -/
def IdxPair.code : IdxPair → Nat
  | .bc => 0 | .de => 1 | .self => 2 | .sp => 3

/-- Code cc of a condition (R108). -/
def Cond.code : Cond → Nat
  | .nz => 0 | .z => 1 | .nc => 2 | .c => 3 | .po => 4 | .pe => 5 | .p => 6 | .m => 7

/-- An opcode byte from bits 7-6, bits 5-3 and bits 2-0 (R100). -/
def opcode (x y z : Nat) : Byte := BitVec.ofNat 8 (64 * x + 8 * y + z)

/-- An opcode byte with a pair code at bits 5-4 and a selector at bit 3 (R100). -/
def opcodePair (x pp sel z : Nat) : Byte := opcode x (2 * pp + sel) z

/-- The bytes of an instruction in memory order (R100 to R103, R121 to R125). -/
def encode : Instr → List Byte
  | .ldRR r r' => [opcode 1 r.code r'.code]
  | .ldRN r n => [opcode 0 r.code 6, n]
  | .ldRAtHl r => [opcode 1 r.code 6]
  | .ldRAtIx r d => [0xDD#8, opcode 1 r.code 6, d]
  | .ldRAtIy r d => [0xFD#8, opcode 1 r.code 6, d]
  | .ldAtHlR r => [opcode 1 6 r.code]
  | .ldAtIxR d r => [0xDD#8, opcode 1 6 r.code, d]
  | .ldAtIyR d r => [0xFD#8, opcode 1 6 r.code, d]
  | .ldAtHlN n => [0x36#8, n]
  | .ldAtIxN d n => [0xDD#8, 0x36#8, d, n]
  | .ldAtIyN d n => [0xFD#8, 0x36#8, d, n]
  | .ldAAtBc => [0x0A#8]
  | .ldAAtDe => [0x1A#8]
  | .ldAAtNn nn => [0x3A#8, loByte nn, hiByte nn]
  | .ldAtBcA => [0x02#8]
  | .ldAtDeA => [0x12#8]
  | .ldAtNnA nn => [0x32#8, loByte nn, hiByte nn]
  | .ldAIreg => [0xED#8, 0x57#8]
  | .ldARreg => [0xED#8, 0x5F#8]
  | .ldIregA => [0xED#8, 0x47#8]
  | .ldRregA => [0xED#8, 0x4F#8]
  | .ldDdNn dd nn => [opcodePair 0 dd.code 0 1, loByte nn, hiByte nn]
  | .ldIxNn nn => [0xDD#8, 0x21#8, loByte nn, hiByte nn]
  | .ldIyNn nn => [0xFD#8, 0x21#8, loByte nn, hiByte nn]
  | .ldHlAtNn nn => [0x2A#8, loByte nn, hiByte nn]
  | .ldDdAtNn dd nn => [0xED#8, opcodePair 1 dd.code 1 3, loByte nn, hiByte nn]
  | .ldIxAtNn nn => [0xDD#8, 0x2A#8, loByte nn, hiByte nn]
  | .ldIyAtNn nn => [0xFD#8, 0x2A#8, loByte nn, hiByte nn]
  | .ldAtNnHl nn => [0x22#8, loByte nn, hiByte nn]
  | .ldAtNnDd nn dd => [0xED#8, opcodePair 1 dd.code 0 3, loByte nn, hiByte nn]
  | .ldAtNnIx nn => [0xDD#8, 0x22#8, loByte nn, hiByte nn]
  | .ldAtNnIy nn => [0xFD#8, 0x22#8, loByte nn, hiByte nn]
  | .ldSpHl => [0xF9#8]
  | .ldSpIx => [0xDD#8, 0xF9#8]
  | .ldSpIy => [0xFD#8, 0xF9#8]
  | .pushQq qq => [opcodePair 3 qq.code 0 5]
  | .pushIx => [0xDD#8, 0xE5#8]
  | .pushIy => [0xFD#8, 0xE5#8]
  | .popQq qq => [opcodePair 3 qq.code 0 1]
  | .popIx => [0xDD#8, 0xE1#8]
  | .popIy => [0xFD#8, 0xE1#8]
  | .exDeHl => [0xEB#8]
  | .exAfAf => [0x08#8]
  | .exx => [0xD9#8]
  | .exAtSpHl => [0xE3#8]
  | .exAtSpIx => [0xDD#8, 0xE3#8]
  | .exAtSpIy => [0xFD#8, 0xE3#8]
  | .ldi => [0xED#8, 0xA0#8]
  | .ldir => [0xED#8, 0xB0#8]
  | .ldd => [0xED#8, 0xA8#8]
  | .lddr => [0xED#8, 0xB8#8]
  | .cpi => [0xED#8, 0xA1#8]
  | .cpir => [0xED#8, 0xB1#8]
  | .cpd => [0xED#8, 0xA9#8]
  | .cpdr => [0xED#8, 0xB9#8]
  | .addAR r => [opcode 2 0 r.code]
  | .addAN n => [opcode 3 0 6, n]
  | .addAAtHl => [opcode 2 0 6]
  | .addAAtIx d => [0xDD#8, opcode 2 0 6, d]
  | .addAAtIy d => [0xFD#8, opcode 2 0 6, d]
  | .adcAR r => [opcode 2 1 r.code]
  | .adcAN n => [opcode 3 1 6, n]
  | .adcAAtHl => [opcode 2 1 6]
  | .adcAAtIx d => [0xDD#8, opcode 2 1 6, d]
  | .adcAAtIy d => [0xFD#8, opcode 2 1 6, d]
  | .subR r => [opcode 2 2 r.code]
  | .subN n => [opcode 3 2 6, n]
  | .subAtHl => [opcode 2 2 6]
  | .subAtIx d => [0xDD#8, opcode 2 2 6, d]
  | .subAtIy d => [0xFD#8, opcode 2 2 6, d]
  | .sbcAR r => [opcode 2 3 r.code]
  | .sbcAN n => [opcode 3 3 6, n]
  | .sbcAAtHl => [opcode 2 3 6]
  | .sbcAAtIx d => [0xDD#8, opcode 2 3 6, d]
  | .sbcAAtIy d => [0xFD#8, opcode 2 3 6, d]
  | .andR r => [opcode 2 4 r.code]
  | .andN n => [opcode 3 4 6, n]
  | .andAtHl => [opcode 2 4 6]
  | .andAtIx d => [0xDD#8, opcode 2 4 6, d]
  | .andAtIy d => [0xFD#8, opcode 2 4 6, d]
  | .xorR r => [opcode 2 5 r.code]
  | .xorN n => [opcode 3 5 6, n]
  | .xorAtHl => [opcode 2 5 6]
  | .xorAtIx d => [0xDD#8, opcode 2 5 6, d]
  | .xorAtIy d => [0xFD#8, opcode 2 5 6, d]
  | .orR r => [opcode 2 6 r.code]
  | .orN n => [opcode 3 6 6, n]
  | .orAtHl => [opcode 2 6 6]
  | .orAtIx d => [0xDD#8, opcode 2 6 6, d]
  | .orAtIy d => [0xFD#8, opcode 2 6 6, d]
  | .cpR r => [opcode 2 7 r.code]
  | .cpN n => [opcode 3 7 6, n]
  | .cpAtHl => [opcode 2 7 6]
  | .cpAtIx d => [0xDD#8, opcode 2 7 6, d]
  | .cpAtIy d => [0xFD#8, opcode 2 7 6, d]
  | .incR r => [opcode 0 r.code 4]
  | .incAtHl => [0x34#8]
  | .incAtIx d => [0xDD#8, 0x34#8, d]
  | .incAtIy d => [0xFD#8, 0x34#8, d]
  | .decR r => [opcode 0 r.code 5]
  | .decAtHl => [0x35#8]
  | .decAtIx d => [0xDD#8, 0x35#8, d]
  | .decAtIy d => [0xFD#8, 0x35#8, d]
  | .addHlSs ss => [opcodePair 0 ss.code 1 1]
  | .adcHlSs ss => [0xED#8, opcodePair 1 ss.code 1 2]
  | .sbcHlSs ss => [0xED#8, opcodePair 1 ss.code 0 2]
  | .addIxPp pp => [0xDD#8, opcodePair 0 pp.code 1 1]
  | .addIyRr rr => [0xFD#8, opcodePair 0 rr.code 1 1]
  | .incSs ss => [opcodePair 0 ss.code 0 3]
  | .incIx => [0xDD#8, 0x23#8]
  | .incIy => [0xFD#8, 0x23#8]
  | .decSs ss => [opcodePair 0 ss.code 1 3]
  | .decIx => [0xDD#8, 0x2B#8]
  | .decIy => [0xFD#8, 0x2B#8]
  | .daa => [0x27#8]
  | .cpl => [0x2F#8]
  | .neg => [0xED#8, 0x44#8]
  | .ccf => [0x3F#8]
  | .scf => [0x37#8]
  | .nop => [0x00#8]
  | .halt => [0x76#8]
  | .di => [0xF3#8]
  | .ei => [0xFB#8]
  | .im0 => [0xED#8, 0x46#8]
  | .im1 => [0xED#8, 0x56#8]
  | .im2 => [0xED#8, 0x5E#8]
  | .rlca => [0x07#8]
  | .rla => [0x17#8]
  | .rrca => [0x0F#8]
  | .rra => [0x1F#8]
  | .rlcR r => [0xCB#8, opcode 0 0 r.code]
  | .rlcAtHl => [0xCB#8, opcode 0 0 6]
  | .rlcAtIx d => [0xDD#8, 0xCB#8, d, opcode 0 0 6]
  | .rlcAtIy d => [0xFD#8, 0xCB#8, d, opcode 0 0 6]
  | .rlR r => [0xCB#8, opcode 0 2 r.code]
  | .rlAtHl => [0xCB#8, opcode 0 2 6]
  | .rlAtIx d => [0xDD#8, 0xCB#8, d, opcode 0 2 6]
  | .rlAtIy d => [0xFD#8, 0xCB#8, d, opcode 0 2 6]
  | .rrcR r => [0xCB#8, opcode 0 1 r.code]
  | .rrcAtHl => [0xCB#8, opcode 0 1 6]
  | .rrcAtIx d => [0xDD#8, 0xCB#8, d, opcode 0 1 6]
  | .rrcAtIy d => [0xFD#8, 0xCB#8, d, opcode 0 1 6]
  | .rrR r => [0xCB#8, opcode 0 3 r.code]
  | .rrAtHl => [0xCB#8, opcode 0 3 6]
  | .rrAtIx d => [0xDD#8, 0xCB#8, d, opcode 0 3 6]
  | .rrAtIy d => [0xFD#8, 0xCB#8, d, opcode 0 3 6]
  | .slaR r => [0xCB#8, opcode 0 4 r.code]
  | .slaAtHl => [0xCB#8, opcode 0 4 6]
  | .slaAtIx d => [0xDD#8, 0xCB#8, d, opcode 0 4 6]
  | .slaAtIy d => [0xFD#8, 0xCB#8, d, opcode 0 4 6]
  | .sraR r => [0xCB#8, opcode 0 5 r.code]
  | .sraAtHl => [0xCB#8, opcode 0 5 6]
  | .sraAtIx d => [0xDD#8, 0xCB#8, d, opcode 0 5 6]
  | .sraAtIy d => [0xFD#8, 0xCB#8, d, opcode 0 5 6]
  | .srlR r => [0xCB#8, opcode 0 7 r.code]
  | .srlAtHl => [0xCB#8, opcode 0 7 6]
  | .srlAtIx d => [0xDD#8, 0xCB#8, d, opcode 0 7 6]
  | .srlAtIy d => [0xFD#8, 0xCB#8, d, opcode 0 7 6]
  | .rld => [0xED#8, 0x6F#8]
  | .rrd => [0xED#8, 0x67#8]
  | .bitR b r => [0xCB#8, opcode 1 b r.code]
  | .bitAtHl b => [0xCB#8, opcode 1 b 6]
  | .bitAtIx b d => [0xDD#8, 0xCB#8, d, opcode 1 b 6]
  | .bitAtIy b d => [0xFD#8, 0xCB#8, d, opcode 1 b 6]
  | .setR b r => [0xCB#8, opcode 3 b r.code]
  | .setAtHl b => [0xCB#8, opcode 3 b 6]
  | .setAtIx b d => [0xDD#8, 0xCB#8, d, opcode 3 b 6]
  | .setAtIy b d => [0xFD#8, 0xCB#8, d, opcode 3 b 6]
  | .resR b r => [0xCB#8, opcode 2 b r.code]
  | .resAtHl b => [0xCB#8, opcode 2 b 6]
  | .resAtIx b d => [0xDD#8, 0xCB#8, d, opcode 2 b 6]
  | .resAtIy b d => [0xFD#8, 0xCB#8, d, opcode 2 b 6]
  | .inAN n => [0xDB#8, n]
  | .inRC r => [0xED#8, opcode 1 r.code 0]
  | .ini => [0xED#8, 0xA2#8]
  | .inir => [0xED#8, 0xB2#8]
  | .ind => [0xED#8, 0xAA#8]
  | .indr => [0xED#8, 0xBA#8]
  | .outNA n => [0xD3#8, n]
  | .outCR r => [0xED#8, opcode 1 r.code 1]
  | .outi => [0xED#8, 0xA3#8]
  | .otir => [0xED#8, 0xB3#8]
  | .outd => [0xED#8, 0xAB#8]
  | .otdr => [0xED#8, 0xBB#8]
  | .jpNn nn => [0xC3#8, loByte nn, hiByte nn]
  | .jpCcNn cc nn => [opcode 3 cc.code 2, loByte nn, hiByte nn]
  | .jrE e => [0x18#8, e]
  | .jrCE e => [0x38#8, e]
  | .jrNcE e => [0x30#8, e]
  | .jrZE e => [0x28#8, e]
  | .jrNzE e => [0x20#8, e]
  | .jpHl => [0xE9#8]
  | .jpIx => [0xDD#8, 0xE9#8]
  | .jpIy => [0xFD#8, 0xE9#8]
  | .djnzE e => [0x10#8, e]
  | .callNn nn => [0xCD#8, loByte nn, hiByte nn]
  | .callCcNn cc nn => [opcode 3 cc.code 4, loByte nn, hiByte nn]
  | .ret => [0xC9#8]
  | .retCc cc => [opcode 3 cc.code 0]
  | .reti => [0xED#8, 0x4D#8]
  | .retn => [0xED#8, 0x45#8]
  | .rstP p => [opcode 3 (p.toNat / 8) 7]

/-- The first `count` bytes of a number, the first byte in its most significant bits: the numbering of the opcode table,
whose `match` and `fixed` read the instruction as one number with the first byte leftmost (log 18). -/
def bytesFirstHigh : Nat → Nat → List Byte
  | 0, _ => []
  | count + 1, w => BitVec.ofNat 8 (w / 256 ^ count) :: bytesFirstHigh count w

/-- The first `count` bytes of a number, the first byte in its least significant bits (log 18). -/
def bytesFirstLow : Nat → Nat → List Byte
  | 0, _ => []
  | count + 1, w => BitVec.ofNat 8 w :: bytesFirstLow count (w / 256)

/-- The instruction that exactly fills the bytes, if there is one. -/
def decodeExactly (bs : List Byte) : Option Instr :=
  match decodeBytes bs with
  | .ok i len => if len = bs.length then some i else none
  | _ => none

/-- The bytes, in fetch order, of an instruction given as a number of `nbits` bits. The table's own numbering (first byte
leftmost) is used wherever it gives an instruction of that length; else, where the numbering with the first byte lowest
gives one, that is used (log 18). -/
def tableBytes (nbits w : Nat) : List Byte :=
  match decodeExactly (bytesFirstHigh (nbits / 8) w), decodeExactly (bytesFirstLow (nbits / 8) w) with
  | none, some _ => bytesFirstLow (nbits / 8) w
  | _, _ => bytesFirstHigh (nbits / 8) w

/-- `tableBytes` with zero bytes up to the longest instruction, four bytes (R100). -/
def tableBytesPadded (nbits w : Nat) : List Byte :=
  (tableBytes nbits w ++ [0#8, 0#8, 0#8, 0#8]).take 4

/-- The instruction the decoder reads from an instruction whose bits are `w`. -/
def decodeTableWord (nbits w : Nat) : Option Instr :=
  match decodeBytes (tableBytesPadded nbits w) with
  | .ok i _ => some i
  | _ => none

end Sys2Proof
end

