-- ==== Sys2Proof/Config.lean ====
section
/-! DEFINITION. What the spec leaves to the platform (`00_scope.md` R5) as plain data, and the free values it leaves open. -/

namespace Sys2Proof

/-- What answers at a memory address: the range of the parameter `MemMap` (R5, R84 to R86). -/
inductive MemKind where
  /-- Read and written as plain storage. -/
  | ram
  /-- Read as plain storage, a write changes nothing (R85). -/
  | rom
  /-- Nothing answers: a read is any value, a write changes nothing (R85). -/
  | unmapped
  /-- A memory-mapped device answers; reads may have side effects (R86). -/
  | device
deriving DecidableEq, Repr

/-- One entry of `MemMap`: `size` addresses from `base` on are of the given kind. -/
structure Region where
  base : Nat
  size : Nat
  kind : MemKind
deriving DecidableEq, Repr

/-- A bus cycle that the world outside CPU and plain memory sees: the history a device answers from (R76, R85, R86, D4). -/
inductive BusEvent where
  /-- An input from a port answered with a value (`IoRead`, R76). -/
  | ioRead (port : Word) (v : Byte)
  /-- An output of a value to a port (`IoWrite`, R76). -/
  | ioWrite (port : Word) (v : Byte)
  /-- A memory-mapped device answered a read (R86). -/
  | memRead (addr : Word) (v : Byte)
  /-- A write cycle at an address that is not RAM (R85, R86). -/
  | memWrite (addr : Word) (v : Byte)
  /-- An interrupt acknowledge cycle, its address lines carrying PC, read a byte from the interrupting device (R452). -/
  | intAck (addr : Word) (v : Byte)
deriving DecidableEq, Repr

/-- One access another bus master makes while it holds the bus (R88). -/
inductive MasterAccess where
  | memRead (addr : Word)
  | memWrite (addr : Word) (v : Byte)
  | ioRead (port : Word)
  | ioWrite (port : Word) (v : Byte)
deriving DecidableEq, Repr

/-- One entry of `IntSchedule`: what the CPU's inputs show at one sampling point (D10, R437, R440, R441, R452). -/
structure Sample where
  /-- The INT pin is low. -/
  int : Bool
  /-- The byte the interrupting device drives if its interrupt is acknowledged; `none`: nothing drives the bus. -/
  data : Option Byte
  /-- An NMI edge has occurred since the last sampling point. -/
  nmiEdge : Bool
  /-- RESET is low, for at least the three clock periods R480 asks for. -/
  reset : Bool
deriving DecidableEq, Repr

/-- The `n`-th value the spec does not fix (`any8()`, and bit by bit `any1()`, R7). No body: nothing is known of it.
DESIGN CHOICE of form, safe (log 4). -/
opaque Config.anyByte (n : Nat) : Byte

/-- What the I/O devices answer to an input, as a function of the history and the 16-bit port address: the parameter
`IoDev` (R5, D4). No body. DESIGN CHOICE of form, safe (log 9). -/
opaque Config.ioDev (history : List BusEvent) (port : Word) : Byte

/-- What a memory-mapped device answers to a read (R86, D26). No body. DESIGN CHOICE of form, safe (log 9). -/
opaque Config.memDev (history : List BusEvent) (addr : Word) : Byte

end Sys2Proof
end

