-- ==== Sys2Proof/Machine/State.lean ====
section
/-! DEFINITION. The machine state: every piece of state of `10_state.md`, memory and the platform of R5, as plain data. -/

namespace Sys2Proof.Machine

/-- The flag register F, bit 7 down to bit 0 (R30). `x5` and `x3` are the storage bits without meaning (R37). -/
structure Flags where
  s : Bool
  z : Bool
  x5 : Bool
  h : Bool
  x3 : Bool
  pv : Bool
  n : Bool
  c : Bool
deriving DecidableEq, Repr

/-- The interrupt mode IM (R41). -/
inductive IntMode where
  | im0 | im1 | im2
deriving DecidableEq, Repr

/-- What lies outside the CPU: memory, its map, the other bus masters, the devices (R3, R5), and the counter of free values. -/
structure Platform where
  /-- Memory (R70), in the canonical form `Memory.wf`: addresses strictly rising, none listed with 00H (log 2). -/
  mem : List Host.Cell
  /-- `MemMap` (R5): the first region that holds an address gives its kind; outside every region memory is RAM (D3, log 8). -/
  memMap : List Region
  /-- `BusMasters` (R5): for each coming machine cycle, the accesses other masters make right after it (R88, log 11). -/
  grants : List (List MasterAccess)
  /-- Answers of the devices stated in advance, used one per device read; when empty, the oracle answers (D4, log 9). -/
  ioScript : List Byte
  /-- The history of bus events, oldest first (D4). -/
  busLog : List BusEvent
  /-- The model's own: how many free values have been drawn (log 4). -/
  draws : Nat
deriving DecidableEq, Repr

/-- The state of the machine. -/
@[ext]
structure State where
  /-- The accumulator (R21). -/
  a : Byte
  /-- The flag register (R30). -/
  f : Flags
  b : Byte
  c : Byte
  d : Byte
  e : Byte
  h : Byte
  l : Byte
  /-- The alternate set A', F', B', C', D', E', H', L' (R23). -/
  altA : Byte
  altF : Flags
  altB : Byte
  altC : Byte
  altD : Byte
  altE : Byte
  altH : Byte
  altL : Byte
  /-- The index registers (R24). -/
  ix : Word
  iy : Word
  /-- The stack pointer (R25). -/
  sp : Word
  /-- The program counter (R26). -/
  pc : Word
  /-- The interrupt vector register I (R27). -/
  i : Byte
  /-- The refresh register R (R28). -/
  r : Byte
  /-- The interrupt enable flip-flops (R40). -/
  iff1 : Bool
  iff2 : Bool
  /-- The interrupt mode (R41). -/
  im : IntMode
  /-- The CPU is in the HALT state (R42). -/
  halted : Bool
  /-- The instruction just completed was EI (R43). -/
  eiShadow : Bool
  /-- An NMI edge has been seen and not yet served (R44). -/
  nmiPending : Bool
  /-- The model's own: the instruction just completed was LD A,I or LD A,R (R459, log 6). -/
  iffRead : Bool
  /-- The INT pin was low at the last sampling point (R440). -/
  intLow : Bool
  /-- The byte the interrupting device drives, if any (R452). -/
  intData : Option Byte
  /-- The RESET pin was low at the last sampling point (R435). -/
  resetLow : Bool
  /-- `IntSchedule` (R5): one entry per coming sampling point; when empty, no interrupt (D10, log 10). -/
  schedule : List Sample
  /-- `IM2_INDIRECT` (R5, R451). -/
  im2Indirect : Bool
  /-- Everything outside the CPU. -/
  plat : Platform
  /-- The model's own ghost counter of T states (R498, log 16). -/
  clock : Nat
deriving DecidableEq, Repr

/-- Why the machine stops with a fault. The Z80 has no synchronous exception (R430), so there is no constructor. Safe. -/
inductive Fault
deriving DecidableEq, Repr

/-- Why the model gives a step no meaning. None is a state of the hardware. -/
inductive Refusal where
  /-- Raised by an arm of `exec` whose instruction has no meaning yet; none has it now. Safe. -/
  | notModelled (mnemonic : String)
  /-- `refuse("undocumented opcode")`, raised by the instruction fetch for the byte sequences of R126 (D7). Safe. -/
  | undocumentedOpcode
  /-- `refuse("mode 0 opcode other than RST")`, raised by the acceptance of INT in mode 0 (R449, D12). Safe. -/
  | mode0NotRst
deriving DecidableEq, Repr

/-- The three outcomes of an instruction or a step. -/
abbrev Result := Host.Outcome State Fault Refusal

/-- F with every bit 0. -/
def Flags.zero : Flags :=
  { s := false, z := false, x5 := false, h := false, x3 := false, pv := false, n := false, c := false }

/-- The platform before anything is placed: all RAM, nothing listed, no other master, no script, no history. -/
def Platform.empty : Platform :=
  { mem := [], memMap := [], grants := [], ioScript := [], busLog := [], draws := 0 }

/-- The machine right after RESET (R480, R481). The registers for which R481 states no value are zero: DESIGN CHOICE, unsafe
(log 1). The platform parameters have the defaults of R5. -/
def State.reset : State :=
  { a := 0, f := Flags.zero, b := 0, c := 0, d := 0, e := 0, h := 0, l := 0,
    altA := 0, altF := Flags.zero, altB := 0, altC := 0, altD := 0, altE := 0, altH := 0, altL := 0,
    ix := 0, iy := 0, sp := 0, pc := 0, i := 0, r := 0, iff1 := false, iff2 := false, im := .im0,
    halted := false, eiShadow := false, nmiPending := false, iffRead := false,
    intLow := false, intData := none, resetLow := false, schedule := [], im2Indirect := true,
    plat := Platform.empty, clock := 0 }

end Sys2Proof.Machine
end

