-- ==== Sys2Proof/Machine/Flags.lean ====
section
/-! DEFINITION. Every flag computation of the spec, as pure functions of operands and old flags. Bits 5 and 3 are placeholders
here: the operation that stores the flags replaces them by free bits (R37). -/

namespace Sys2Proof.Machine

/-- F as one byte, bit 7 S down to bit 0 C (R30). -/
def Flags.toByte (f : Flags) : Byte :=
  BitVec.ofBool f.s ++ BitVec.ofBool f.z ++ BitVec.ofBool f.x5 ++ BitVec.ofBool f.h
    ++ BitVec.ofBool f.x3 ++ BitVec.ofBool f.pv ++ BitVec.ofBool f.n ++ BitVec.ofBool f.c

/-- A byte loaded into F, all eight bits (R30, R37). -/
def Flags.ofByte (v : Byte) : Flags :=
  { s := v.getLsbD 7, z := v.getLsbD 6, x5 := v.getLsbD 5, h := v.getLsbD 4,
    x3 := v.getLsbD 3, pv := v.getLsbD 2, n := v.getLsbD 1, c := v.getLsbD 0 }

/-- Bits 5 and 3 of F replaced by those of a free byte (R37). -/
def Flags.withFreeX (f : Flags) (free : Byte) : Flags :=
  { f with x5 := free.getLsbD 5, x3 := free.getLsbD 3 }

/-- `parity(v)`: true when the number of 1 bits is even (R7, R34). -/
def parity (v : Byte) : Bool :=
  !(v.getLsbD 0 ^^ v.getLsbD 1 ^^ v.getLsbD 2 ^^ v.getLsbD 3
    ^^ v.getLsbD 4 ^^ v.getLsbD 5 ^^ v.getLsbD 6 ^^ v.getLsbD 7)

/-- The result of `add8` (R220). -/
def add8 (a b : Byte) (cin : Bool) : Byte :=
  BitVec.ofNat 8 (a.toNat + b.toNat + cin.toNat)

/-- The flags of `add8` (R220). -/
def add8Flags (a b : Byte) (cin : Bool) : Flags :=
  { s := (add8 a b cin).msb
    z := add8 a b cin == 0#8
    x5 := false
    h := decide (a.toNat % 16 + b.toNat % 16 + cin.toNat > 15)
    x3 := false
    pv := a.msb == b.msb && (add8 a b cin).msb != a.msb
    n := false
    c := decide (a.toNat + b.toNat + cin.toNat > 255) }

/-- The result of `sub8` (R221): the exact difference reduced modulo 2^8. -/
def sub8 (a b : Byte) (cin : Bool) : Byte :=
  BitVec.ofInt 8 ((a.toNat : Int) - b.toNat - cin.toNat)

/-- The flags of `sub8` (R221). -/
def sub8Flags (a b : Byte) (cin : Bool) : Flags :=
  { s := (sub8 a b cin).msb
    z := sub8 a b cin == 0#8
    x5 := false
    h := decide (a.toNat % 16 < b.toNat % 16 + cin.toNat)
    x3 := false
    pv := a.msb != b.msb && (sub8 a b cin).msb != a.msb
    n := true
    c := decide (a.toNat < b.toNat + cin.toNat) }

/-- The flags of `logic8` (R222). -/
def logic8Flags (res : Byte) (h : Bool) : Flags :=
  { s := res.msb, z := res == 0#8, x5 := false, h := h, x3 := false, pv := parity res, n := false, c := false }

/-- The flags of `inc8` (R223). -/
def inc8Flags (old : Flags) (v : Byte) : Flags :=
  { s := (v + 1#8).msb, z := v + 1#8 == 0#8, x5 := false, h := decide (v.toNat % 16 = 15), x3 := false,
    pv := v == 0x7F#8, n := false, c := old.c }

/-- The flags of `dec8` (R223). -/
def dec8Flags (old : Flags) (v : Byte) : Flags :=
  { s := (v - 1#8).msb, z := v - 1#8 == 0#8, x5 := false, h := decide (v.toNat % 16 = 0), x3 := false,
    pv := v == 0x80#8, n := true, c := old.c }

/-- The result of `add16` and `adc16` (R280, R281). -/
def add16 (a b : Word) (cin : Bool) : Word :=
  BitVec.ofNat 16 (a.toNat + b.toNat + cin.toNat)

/-- The flags of `add16` (R280): only H, N and C are written. -/
def add16Flags (old : Flags) (a b : Word) : Flags :=
  { old with
    h := decide (a.toNat % 4096 + b.toNat % 4096 > 4095)
    n := false
    c := decide (a.toNat + b.toNat > 65535) }

/-- The flags of `adc16` (R281). -/
def adc16Flags (a b : Word) (cin : Bool) : Flags :=
  { s := (add16 a b cin).msb
    z := add16 a b cin == 0#16
    x5 := false
    h := decide (a.toNat % 4096 + b.toNat % 4096 + cin.toNat > 4095)
    x3 := false
    pv := a.msb == b.msb && (add16 a b cin).msb != a.msb
    n := false
    c := decide (a.toNat + b.toNat + cin.toNat > 65535) }

/-- The result of `sbc16` (R282). -/
def sbc16 (a b : Word) (cin : Bool) : Word :=
  BitVec.ofInt 16 ((a.toNat : Int) - b.toNat - cin.toNat)

/-- The flags of `sbc16` (R282). -/
def sbc16Flags (a b : Word) (cin : Bool) : Flags :=
  { s := (sbc16 a b cin).msb
    z := sbc16 a b cin == 0#16
    x5 := false
    h := decide (a.toNat % 4096 < b.toNat % 4096 + cin.toNat)
    x3 := false
    pv := a.msb != b.msb && (sbc16 a b cin).msb != a.msb
    n := true
    c := decide (a.toNat < b.toNat + cin.toNat) }

/-- The seven rotate and shift operations (R320). -/
inductive RotKind where
  | rlc | rrc | rl | rr | sla | sra | srl
deriving DecidableEq, Repr

/-- The result column of R320; `c` is the old carry. -/
def rotResult (kind : RotKind) (c : Bool) (v : Byte) : Byte :=
  match kind with
  | .rlc => v.extractLsb' 0 7 ++ v.extractLsb' 7 1
  | .rrc => v.extractLsb' 0 1 ++ v.extractLsb' 1 7
  | .rl => v.extractLsb' 0 7 ++ BitVec.ofBool c
  | .rr => BitVec.ofBool c ++ v.extractLsb' 1 7
  | .sla => v.extractLsb' 0 7 ++ 0#1
  | .sra => v.extractLsb' 7 1 ++ v.extractLsb' 1 7
  | .srl => 0#1 ++ v.extractLsb' 1 7

/-- The carry column of R320. -/
def rotCarry (kind : RotKind) (v : Byte) : Bool :=
  match kind with
  | .rlc | .rl | .sla => v.getLsbD 7
  | .rrc | .rr | .sra | .srl => v.getLsbD 0

/-- The flags of `rot` (R320), from the result and the bit moved out. -/
def rotFlags (res : Byte) (co : Bool) : Flags :=
  { s := res.msb, z := res == 0#8, x5 := false, h := false, x3 := false, pv := parity res, n := false, c := co }

/-- The flags of RLCA, RLA, RRCA, RRA (R321 to R324): only H, N and C are written. -/
def rotAFlags (old : Flags) (co : Bool) : Flags :=
  { old with h := false, n := false, c := co }

/-- Flags from a byte that keep C and clear H and N: RLD, RRD (R353, R354) and `IN r,(C)` (R381). -/
def byteFlags (old : Flags) (v : Byte) : Flags :=
  { s := v.msb, z := v == 0#8, x5 := false, h := false, x3 := false, pv := parity v, n := false, c := old.c }

/-- The flags of `LD A,I` and `LD A,R` (R158, R159): P/V reports IFF2. -/
def ldAIFlags (old : Flags) (v : Byte) (iff2 : Bool) : Flags :=
  { s := v.msb, z := v == 0#8, x5 := false, h := false, x3 := false, pv := iff2, n := false, c := old.c }

/-- The flags of the block transfers (R215): H and N cleared, P/V says that BC is not yet 0. -/
def blockMoveFlags (old : Flags) (bcAfter : Word) : Flags :=
  { old with h := false, pv := bcAfter != 0#16, n := false }

/-- The flags of the block searches (R215): S, Z, H of the difference, P/V says that BC is not yet 0. -/
def blockSearchFlags (old : Flags) (a v : Byte) (bcAfter : Word) : Flags :=
  { s := (a - v).msb, z := a - v == 0#8, x5 := false, h := decide (a.toNat % 16 < v.toNat % 16), x3 := false,
    pv := bcAfter != 0#16, n := true, c := old.c }

/-- The flags of the block input and output instructions (R392): only Z is defined, every other bit is free. -/
def blockIoFlags (bAfter : Byte) (free : Byte) : Flags :=
  { Flags.ofByte free with z := bAfter == 0#8 }

/-- The flags of BIT (R360): S, P/V and bits 5 and 3 are free, C is kept. -/
def bitFlags (old : Flags) (v : Byte) (b : Nat) (free : Byte) : Flags :=
  { Flags.ofByte free with z := !v.getLsbD b, h := true, n := false, c := old.c }

/-- The correction DAA applies (R300). -/
def daaCorrection (f : Flags) (a : Byte) : Byte :=
  (if f.h || decide (a.toNat % 16 > 9) then 0x06#8 else 0#8)
    ||| (if f.c || decide (a.toNat > 0x99) then 0x60#8 else 0#8)

/-- The result of DAA (R300). -/
def daaResult (f : Flags) (a : Byte) : Byte :=
  if f.n then a - daaCorrection f a else a + daaCorrection f a

/-- The flags of DAA (R300); N is kept. -/
def daaFlags (f : Flags) (a : Byte) : Flags :=
  { s := (daaResult f a).msb
    z := daaResult f a == 0#8
    x5 := false
    h := if f.n then f.h && decide (a.toNat % 16 < 6) else decide (a.toNat % 16 > 9)
    x3 := false
    pv := parity (daaResult f a)
    n := f.n
    c := f.c || decide (a.toNat > 0x99) }

/-- The flags of CPL (R301). -/
def cplFlags (old : Flags) : Flags :=
  { old with h := true, n := true }

/-- The flags of CCF (R303): H takes the old carry. -/
def ccfFlags (old : Flags) : Flags :=
  { old with h := old.c, n := false, c := !old.c }

/-- The flags of SCF (R304). -/
def scfFlags (old : Flags) : Flags :=
  { old with h := false, n := false, c := true }

/-- The truth of a condition code (R108). -/
def Flags.holds (f : Flags) : Cond → Bool
  | .nz => !f.z
  | .z => f.z
  | .nc => !f.c
  | .c => f.c
  | .po => !f.pv
  | .pe => f.pv
  | .p => !f.s
  | .m => f.s

end Sys2Proof.Machine
end

