-- ==== Sys2Proof/Machine/Ops.lean ====
section
/-! DEFINITION. The shared operations: memory and the bus, the stack, free values, R, interrupt entry and return, RESET, sampling. -/

namespace Sys2Proof.Machine

/-! Memory as canonical data. -/

/-- The byte at an address: 00H where nothing is listed (DESIGN CHOICE, unsafe, log 2). -/
def memRead : List Host.Cell → Nat → Byte
  | [], _ => 0#8
  | (k, v) :: m, a => if a = k then v else memRead m a

/-- Every entry for an address removed. -/
def memErase : List Host.Cell → Nat → List Host.Cell
  | [], _ => []
  | (k, w) :: m, a => if k = a then memErase m a else (k, w) :: memErase m a

/-- An entry put before the first one of a higher address. -/
def memInsert : List Host.Cell → Nat → Byte → List Host.Cell
  | [], a, v => [(a, v)]
  | (k, w) :: m, a, v => if a < k then (a, v) :: (k, w) :: m else (k, w) :: memInsert m a v

/-- Store a byte, keeping the canonical form: sorted by address, no entry equal to 00H. -/
def memWrite (m : List Host.Cell) (a : Nat) (v : Byte) : List Host.Cell :=
  if v = 0#8 then memErase m a else memInsert (memErase m a) a v

/-- The canonical form from an address on: strictly rising, below 2^16 (R70), no entry equal to what an unlisted address reads as. -/
def Memory.wfFrom (lo : Nat) : List Host.Cell → Bool
  | [] => true
  | (k, v) :: m => decide (lo ≤ k) && decide (k < 65536) && v != 0#8 && Memory.wfFrom (k + 1) m

/-- The canonical form of memory: equal memories are equal lists. -/
def Memory.wf (m : List Host.Cell) : Bool := Memory.wfFrom 0 m

/-! The platform: one machine cycle at a time (R72 to R76). -/

/-- The kind of an address: that of the first region that holds it, else RAM (R5, D3). -/
def Platform.kindAt (p : Platform) (a : Word) : MemKind :=
  match p.memMap.find? (fun g => decide (g.base ≤ a.toNat) && decide (a.toNat < g.base + g.size)) with
  | some g => g.kind
  | none => .ram

/-- The byte `Mem` holds at an address, whatever is mapped there (R70). -/
def Platform.peek (p : Platform) (a : Word) : Byte := memRead p.mem a.toNat

/-- The next free value (`any8()`, R7). -/
def Platform.anyByte (p : Platform) : Byte := Config.anyByte p.draws

/-- The platform after a free value has been drawn. -/
def Platform.drawn (p : Platform) : Platform := { p with draws := p.draws + 1 }

/-- A bus event is added to the history (D4). -/
def Platform.logged (p : Platform) (e : BusEvent) : Platform := { p with busLog := p.busLog ++ [e] }

/-- What a port answers (R76, D4): the next scripted answer, else the oracle. -/
def Platform.ioAnswer (p : Platform) (port : Word) : Byte :=
  match p.ioScript with
  | v :: _ => v
  | [] => Config.ioDev p.busLog port

/-- What a memory-mapped device answers (R86, D26). -/
def Platform.memAnswer (p : Platform) (a : Word) : Byte :=
  match p.ioScript with
  | v :: _ => v
  | [] => Config.memDev p.busLog a

/-- A device has answered: the event is recorded, the script advances. -/
def Platform.answered (p : Platform) (e : BusEvent) : Platform :=
  { p with busLog := p.busLog ++ [e], ioScript := p.ioScript.tail }

/-- The byte a memory read cycle returns (R72, R85, R86). -/
def Platform.readVal (p : Platform) (a : Word) : Byte :=
  match p.kindAt a with
  | .ram | .rom => p.peek a
  | .unmapped => p.anyByte
  | .device => p.memAnswer a

/-- The platform after a memory read cycle (R72, R85, R86). -/
def Platform.readCycle (p : Platform) (a : Word) : Platform :=
  match p.kindAt a with
  | .ram | .rom => p
  | .unmapped => p.drawn
  | .device => p.answered (.memRead a (p.memAnswer a))

/-- The platform after a memory write cycle (R73, R85, R86). -/
def Platform.writeCycle (p : Platform) (a : Word) (v : Byte) : Platform :=
  match p.kindAt a with
  | .ram => { p with mem := memWrite p.mem a.toNat v }
  | .rom | .unmapped | .device => p.logged (.memWrite a v)

/-- The platform after an input cycle (R76). -/
def Platform.inCycle (p : Platform) (port : Word) : Platform :=
  p.answered (.ioRead port (p.ioAnswer port))

/-- The platform after an output cycle (R76). -/
def Platform.outCycle (p : Platform) (port : Word) (v : Byte) : Platform :=
  p.logged (.ioWrite port v)

/-- One access of another bus master (R88). -/
def Platform.masterAccess (p : Platform) : MasterAccess → Platform
  | .memRead a => p.readCycle a
  | .memWrite a v => p.writeCycle a v
  | .ioRead port => p.inCycle port
  | .ioWrite port v => p.outCycle port v

/-- The end of a machine cycle: the bus is granted if another master asks for it (R88, R434, log 11). -/
def Platform.endCycle (p : Platform) : Platform :=
  match p.grants with
  | [] => p
  | g :: rest => g.foldl Platform.masterAccess { p with grants := rest }

/-! Machine cycles of the CPU. A value is read off the state before the cycle; the `after` operation is the state after it. -/

/-- The state with another platform. -/
def State.withPlat (s : State) (p : Platform) : State := { s with plat := p }

/-- The byte `Mem` holds at an address (R70). -/
def State.peek (s : State) (a : Word) : Byte := s.plat.peek a

/-- The value `MemRead(a, 1)` returns (R72). -/
def State.read (s : State) (a : Word) : Byte := s.plat.readVal a

/-- The state after `MemRead(a, 1)`. -/
def State.afterRead (s : State) (a : Word) : State := s.withPlat (s.plat.readCycle a).endCycle

/-- `MemWrite(a, 1, v)` (R73). -/
def State.write (s : State) (a : Word) (v : Byte) : State := s.withPlat (s.plat.writeCycle a v).endCycle

/-- The value `MemRead(a, 2)` returns: low byte at `a` first, then the high byte (R78). -/
def State.read16 (s : State) (a : Word) : Word :=
  wordOf ((s.afterRead a).read (a + 1)) (s.read a)

/-- The state after `MemRead(a, 2)`. -/
def State.afterRead16 (s : State) (a : Word) : State := (s.afterRead a).afterRead (a + 1)

/-- `MemWrite(a, 2, v)`: low byte first (R79). -/
def State.write16 (s : State) (a : Word) (v : Word) : State :=
  (s.write a (loByte v)).write (a + 1) (hiByte v)

/-- The value `IoRead(port)` returns (R76). -/
def State.input (s : State) (port : Word) : Byte := s.plat.ioAnswer port

/-- The state after `IoRead(port)`. -/
def State.afterInput (s : State) (port : Word) : State := s.withPlat (s.plat.inCycle port).endCycle

/-- `IoWrite(port, v)` (R76). -/
def State.output (s : State) (port : Word) (v : Byte) : State := s.withPlat (s.plat.outCycle port v).endCycle

/-! Flags and free values. -/

/-- The next free value (R7). -/
def State.free (s : State) : Byte := s.plat.anyByte

/-- A write of F in which some bits are free: `k` gives F from the free byte (R37, D8). -/
def State.setFlagsFree (s : State) (k : Byte → Flags) : State :=
  { s with f := k s.free, plat := s.plat.drawn }

/-- A write of flags: bits 5 and 3 become free (R37). -/
def State.setFlags (s : State) (f : Flags) : State := s.setFlagsFree f.withFreeX

/-! The stack (R80). -/

/-- One byte pushed: SP is decremented, then the byte is written at SP (R25, R80). -/
def State.pushByte (s : State) (v : Byte) : State :=
  { s with sp := s.sp - 1 }.write (s.sp - 1) v

/-- `push16(v)`: high byte first (R80). -/
def State.push16 (s : State) (v : Word) : State := (s.pushByte (hiByte v)).pushByte (loByte v)

/-- The state after one byte is popped: read at SP, then SP is incremented (R25, R80). -/
def State.afterPopByte (s : State) : State := { s.afterRead s.sp with sp := s.sp + 1 }

/-- The value `pop16()` returns: low byte first (R80). -/
def State.pop16 (s : State) : Word := wordOf (s.afterPopByte.read (s.sp + 1)) (s.read s.sp)

/-- The state after `pop16()`. -/
def State.afterPop16 (s : State) : State := s.afterPopByte.afterPopByte

/-- A call: the return address is pushed, PC takes the target (R411, R417). -/
def State.callTo (s : State) (target : Word) : State := { s.push16 s.pc with pc := target }

/-- A return: PC is popped (R413). -/
def State.returnPop (s : State) : State := { s.afterPop16 with pc := s.pop16 }

/-! The refresh register (R28). -/

/-- R after one more M1 cycle: the low seven bits count, bit 7 stays (R28). -/
def refreshNext (r : Byte) : Byte := (r &&& 0x80#8) ||| ((r + 1#8) &&& 0x7F#8)

/-- `m1()` (R28). -/
def State.m1 (s : State) : State := { s with r := refreshNext s.r }

/-- One halted cycle: an M1 cycle that executes nothing (R306, R455). -/
def State.haltCycle (s : State) : State := s.m1.withPlat s.plat.endCycle

/-! Taking an interrupt, and the return from one. -/

/-- Acceptance of an NMI (R445): its opcode-fetch-like cycle at PC is a read whose data is ignored. -/
def State.acceptNmi (s : State) : State :=
  ({ s with nmiPending := false, halted := false, iff1 := false }.m1.afterRead s.pc).callTo 0x0066#16

/-- The conditions of R447 for the acceptance of a maskable interrupt. -/
def State.intAccepted (s : State) : Bool := s.intLow && s.iff1 && !s.eiShadow && !s.nmiPending

/-- The free P/V of U9 (R459): the instruction before was LD A,I or LD A,R and an INT is accepted at its end (log 6). -/
def State.clearIffRead (s : State) : State :=
  if s.iffRead then { s with f := { s.f with pv := s.free.getLsbD 2 }, plat := s.plat.drawn } else s

/-- The byte on the data bus in the acknowledge cycle: what the device drives, else free (R452, log 17). -/
def State.ackByte (s : State) : Byte := s.intData.getD s.free

/-- The interrupt acknowledge cycle: an M1 cycle for R, a read in the I/O space for the devices, the address lines carrying PC
(R448, R452, R71). -/
def State.acknowledge (s : State) : State :=
  s.m1.withPlat ((if s.intData.isSome then s.plat else s.plat.drawn).logged (.intAck s.pc s.ackByte)).endCycle

/-- The part of the acceptance common to the three modes, before the acknowledge cycle (R448). -/
def State.beginInt (s : State) : State :=
  { s.clearIffRead with halted := false, iff1 := false, iff2 := false }

/-- Mode 2: the word `cat(I, v)` is the handler's address or, by default, the address of a table entry that holds it (R451). -/
def State.enterMode2 (s : State) (v : Byte) : State :=
  if s.im2Indirect then
    { (s.push16 s.pc).afterRead16 (wordOf s.i v) with pc := (s.push16 s.pc).read16 (wordOf s.i v) }
  else s.callTo (wordOf s.i v)

/-- The handler entry of each mode for the acknowledged byte `v` (R449 to R451). -/
def State.enterHandler (s : State) (v : Byte) : Result :=
  match s.im with
  | .im0 => if v &&& 0xC7#8 = 0xC7#8 then .next (s.callTo (wordOf 0#8 (v &&& 0x38#8))) else .refused .mode0NotRst
  | .im1 => .next (s.callTo 0x0038#16)
  | .im2 => .next (s.enterMode2 v)

/-- Acceptance of a maskable interrupt (R448). -/
def State.acceptInt (s : State) : Result :=
  s.beginInt.acknowledge.enterHandler s.beginInt.ackByte

/-- The return from an NMI handler: PC is popped, IFF1 gets the enable state kept in IFF2 (R416, R446). -/
def State.returnNmi (s : State) : State := { s.returnPop with iff1 := s.iff2 }

/-- The return from a maskable-interrupt handler: PC is popped, the flip-flops stay (R415, R453). -/
def State.returnInt (s : State) : State := s.returnPop

/-! RESET and the sampling of the inputs. -/

/-- RESET (R480). The registers that R481 leaves unspecified get free values (`ResetDraw`, log 7); memory and platform stay. -/
def State.applyReset (s : State) : State :=
  let any (k : Nat) : Byte := Config.anyByte (s.plat.draws + k)
  { s with
    pc := 0, i := 0, r := 0, iff1 := false, iff2 := false, im := .im0,
    halted := false, eiShadow := false, nmiPending := false, iffRead := false, resetLow := false,
    a := any 0, f := Flags.ofByte (any 1), b := any 2, c := any 3, d := any 4, e := any 5, h := any 6, l := any 7,
    altA := any 8, altF := Flags.ofByte (any 9), altB := any 10, altC := any 11, altD := any 12, altE := any 13,
    altH := any 14, altL := any 15, ix := wordOf (any 16) (any 17), iy := wordOf (any 18) (any 19),
    sp := wordOf (any 20) (any 21), plat := { s.plat with draws := s.plat.draws + 22 } }

/-- The sampling point at the end of an instruction or halted cycle (R437, R440, R441, D10, D22). -/
def State.sampleInputs (s : State) : State :=
  match s.schedule with
  | [] => { s with intLow := false, intData := none }
  | x :: rest =>
    { s with schedule := rest, intLow := x.int, intData := x.data,
             nmiPending := s.nmiPending || x.nmiEdge, resetLow := x.reset }

end Sys2Proof.Machine
end

