-- ==== Sys2Proof/Machine/Operands.lean ====
section
/-! DEFINITION. The operand forms (R110 to R120): registers, pairs, the index registers, indexed addresses, read-modify-write. -/

namespace Sys2Proof.Machine

/-- `r8[c]` read (R104). -/
def State.reg (s : State) : Reg8 → Byte
  | .b => s.b | .c => s.c | .d => s.d | .e => s.e | .h => s.h | .l => s.l | .a => s.a

/-- `r8[c] <- v` (R104). -/
def State.setReg (s : State) (r : Reg8) (v : Byte) : State :=
  match r with
  | .b => { s with b := v }
  | .c => { s with c := v }
  | .d => { s with d := v }
  | .e => { s with e := v }
  | .h => { s with h := v }
  | .l => { s with l := v }
  | .a => { s with a := v }

/-- BC = cat(B, C) (R22). -/
def State.bc (s : State) : Word := wordOf s.b s.c

/-- DE = cat(D, E) (R22). -/
def State.de (s : State) : Word := wordOf s.d s.e

/-- HL = cat(H, L) (R22). -/
def State.hl (s : State) : Word := wordOf s.h s.l

/-- AF = cat(A, F) (R22). -/
def State.af (s : State) : Word := wordOf s.a s.f.toByte

/-- Write BC (R22). -/
def State.setBc (s : State) (v : Word) : State := { s with b := hiByte v, c := loByte v }

/-- Write DE (R22). -/
def State.setDe (s : State) (v : Word) : State := { s with d := hiByte v, e := loByte v }

/-- Write HL (R22). -/
def State.setHl (s : State) (v : Word) : State := { s with h := hiByte v, l := loByte v }

/-- Write AF, all eight bits of F included (R22, R37, R188). -/
def State.setAf (s : State) (v : Word) : State := { s with a := hiByte v, f := Flags.ofByte (loByte v) }

/-- `rp[c]` read (R105). -/
def State.pair (s : State) : Pair → Word
  | .bc => s.bc | .de => s.de | .hl => s.hl | .sp => s.sp

/-- `rp[c] <- v` (R105). -/
def State.setPair (s : State) (dd : Pair) (v : Word) : State :=
  match dd with
  | .bc => s.setBc v
  | .de => s.setDe v
  | .hl => s.setHl v
  | .sp => { s with sp := v }

/-- `rp2[c]` read (R106). -/
def State.stackPair (s : State) : StackPair → Word
  | .bc => s.bc | .de => s.de | .hl => s.hl | .af => s.af

/-- `rp2[c] <- v` (R106). -/
def State.setStackPair (s : State) (qq : StackPair) (v : Word) : State :=
  match qq with
  | .bc => s.setBc v
  | .de => s.setDe v
  | .hl => s.setHl v
  | .af => s.setAf v

/-- The second operand of `ADD IX,pp` (R107, R286). -/
def State.ixPair (s : State) : IdxPair → Word
  | .bc => s.bc | .de => s.de | .self => s.ix | .sp => s.sp

/-- The second operand of `ADD IY,rr` (R107, R287). -/
def State.iyPair (s : State) : IdxPair → Word
  | .bc => s.bc | .de => s.de | .self => s.iy | .sp => s.sp

/-- EA = IX + d modulo 2^16 (R116). -/
def State.ixd (s : State) (d : Byte) : Word := s.ix + sext16 d

/-- EA = IY + d modulo 2^16 (R116). -/
def State.iyd (s : State) (d : Byte) : Word := s.iy + sext16 d

/-- Relative addressing: PC, already past the instruction, plus the displacement (R115). -/
def State.relative (s : State) (e : Byte) : Word := s.pc + sext16 e

/-- A jump (R400). -/
def State.jump (s : State) (target : Word) : State := { s with pc := target }

/-- Repeat a block instruction: PC goes back to its own first byte (R214). -/
def State.repeatIf (s : State) (again : Bool) : State := if again then s.jump (s.pc - 2) else s

/-- A read cycle, then a write cycle at the same address, no flag written (R365, R369). -/
def State.modify (s : State) (a : Word) (res : Byte → Byte) : State :=
  (s.afterRead a).write a (res (s.read a))

/-- A read cycle, then a write cycle at the same address, and the flags of the value read (R266, R326). -/
def State.modifyFlags (s : State) (a : Word) (res : Byte → Byte) (flags : Byte → Flags) : State :=
  (s.modify a res).setFlags (flags (s.read a))

/-- EX (SP),vv (R203): both bytes are read, then written high byte first. -/
def State.swapTop (s : State) (v : Word) : State :=
  ((s.afterRead16 s.sp).write (s.sp + 1) (hiByte v)).write s.sp (loByte v)

/-- `b` set in a byte (R364): `v or (1 << b)`. -/
def setBit (b : Nat) (v : Byte) : Byte := v ||| (1#8 <<< b)

/-- `b` reset in a byte (R368): `v and not (1 << b)`. -/
def resBit (b : Nat) (v : Byte) : Byte := v &&& ~~~(1#8 <<< b)

end Sys2Proof.Machine
end

