-- ==== Sys2Proof/Machine/Alu8.lean ====
section
/-! DEFINITION. The 8-bit arithmetic and logic group: one meaning per instruction, on the state after the fetch. -/

namespace Sys2Proof.Machine

/-- `A <- add8(A, v, cin)` (R220). -/
def State.addToA (s : State) (v : Byte) (cin : Bool) : State :=
  { s.setFlags (add8Flags s.a v cin) with a := add8 s.a v cin }

/-- `A <- sub8(A, v, cin)` (R221). -/
def State.subFromA (s : State) (v : Byte) (cin : Bool) : State :=
  { s.setFlags (sub8Flags s.a v cin) with a := sub8 s.a v cin }

/-- `A <- logic8(A and v, 1)` (R222). -/
def State.andA (s : State) (v : Byte) : State :=
  { s.setFlags (logic8Flags (s.a &&& v) true) with a := s.a &&& v }

/-- `A <- logic8(A xor v, 0)` (R222). -/
def State.xorA (s : State) (v : Byte) : State :=
  { s.setFlags (logic8Flags (s.a ^^^ v) false) with a := s.a ^^^ v }

/-- `A <- logic8(A or v, 0)` (R222). -/
def State.orA (s : State) (v : Byte) : State :=
  { s.setFlags (logic8Flags (s.a ||| v) false) with a := s.a ||| v }

/-- `sub8(A, v, 0)` for its flags alone, A unchanged (R260). -/
def State.compareA (s : State) (v : Byte) : State :=
  s.setFlags (sub8Flags s.a v false)

/-- `ADD A,r` (R225). -/
def execAddAR (r : Reg8) (s : State) : Result :=
  .next (s.addToA (s.reg r) false)

/-- `ADD A,n` (R226). -/
def execAddAN (n : Byte) (s : State) : Result :=
  .next (s.addToA n false)

/-- `ADD A,(HL)` (R227). -/
def execAddAAtHl (s : State) : Result :=
  .next ((s.afterRead s.hl).addToA (s.read s.hl) false)

/-- `ADD A,(IX+d)` (R228). -/
def execAddAAtIx (d : Byte) (s : State) : Result :=
  .next ((s.afterRead (s.ixd d)).addToA (s.read (s.ixd d)) false)

/-- `ADD A,(IY+d)` (R229). -/
def execAddAAtIy (d : Byte) (s : State) : Result :=
  .next ((s.afterRead (s.iyd d)).addToA (s.read (s.iyd d)) false)

/-- `ADC A,r` (R230). -/
def execAdcAR (r : Reg8) (s : State) : Result :=
  .next (s.addToA (s.reg r) s.f.c)

/-- `ADC A,n` (R231). -/
def execAdcAN (n : Byte) (s : State) : Result :=
  .next (s.addToA n s.f.c)

/-- `ADC A,(HL)` (R232). -/
def execAdcAAtHl (s : State) : Result :=
  .next ((s.afterRead s.hl).addToA (s.read s.hl) s.f.c)

/-- `ADC A,(IX+d)` (R233). -/
def execAdcAAtIx (d : Byte) (s : State) : Result :=
  .next ((s.afterRead (s.ixd d)).addToA (s.read (s.ixd d)) s.f.c)

/-- `ADC A,(IY+d)` (R234). -/
def execAdcAAtIy (d : Byte) (s : State) : Result :=
  .next ((s.afterRead (s.iyd d)).addToA (s.read (s.iyd d)) s.f.c)

/-- `SUB r` (R235). -/
def execSubR (r : Reg8) (s : State) : Result :=
  .next (s.subFromA (s.reg r) false)

/-- `SUB n` (R236). -/
def execSubN (n : Byte) (s : State) : Result :=
  .next (s.subFromA n false)

/-- `SUB (HL)` (R237). -/
def execSubAtHl (s : State) : Result :=
  .next ((s.afterRead s.hl).subFromA (s.read s.hl) false)

/-- `SUB (IX+d)` (R238). -/
def execSubAtIx (d : Byte) (s : State) : Result :=
  .next ((s.afterRead (s.ixd d)).subFromA (s.read (s.ixd d)) false)

/-- `SUB (IY+d)` (R239). -/
def execSubAtIy (d : Byte) (s : State) : Result :=
  .next ((s.afterRead (s.iyd d)).subFromA (s.read (s.iyd d)) false)

/-- `SBC A,r` (R240). -/
def execSbcAR (r : Reg8) (s : State) : Result :=
  .next (s.subFromA (s.reg r) s.f.c)

/-- `SBC A,n` (R241). -/
def execSbcAN (n : Byte) (s : State) : Result :=
  .next (s.subFromA n s.f.c)

/-- `SBC A,(HL)` (R242). -/
def execSbcAAtHl (s : State) : Result :=
  .next ((s.afterRead s.hl).subFromA (s.read s.hl) s.f.c)

/-- `SBC A,(IX+d)` (R243). -/
def execSbcAAtIx (d : Byte) (s : State) : Result :=
  .next ((s.afterRead (s.ixd d)).subFromA (s.read (s.ixd d)) s.f.c)

/-- `SBC A,(IY+d)` (R244). -/
def execSbcAAtIy (d : Byte) (s : State) : Result :=
  .next ((s.afterRead (s.iyd d)).subFromA (s.read (s.iyd d)) s.f.c)

/-- `AND r` (R245). -/
def execAndR (r : Reg8) (s : State) : Result :=
  .next (s.andA (s.reg r))

/-- `AND n` (R246). -/
def execAndN (n : Byte) (s : State) : Result :=
  .next (s.andA n)

/-- `AND (HL)` (R247). -/
def execAndAtHl (s : State) : Result :=
  .next ((s.afterRead s.hl).andA (s.read s.hl))

/-- `AND (IX+d)` (R248). -/
def execAndAtIx (d : Byte) (s : State) : Result :=
  .next ((s.afterRead (s.ixd d)).andA (s.read (s.ixd d)))

/-- `AND (IY+d)` (R249). -/
def execAndAtIy (d : Byte) (s : State) : Result :=
  .next ((s.afterRead (s.iyd d)).andA (s.read (s.iyd d)))

/-- `XOR r` (R250). -/
def execXorR (r : Reg8) (s : State) : Result :=
  .next (s.xorA (s.reg r))

/-- `XOR n` (R251). -/
def execXorN (n : Byte) (s : State) : Result :=
  .next (s.xorA n)

/-- `XOR (HL)` (R252). -/
def execXorAtHl (s : State) : Result :=
  .next ((s.afterRead s.hl).xorA (s.read s.hl))

/-- `XOR (IX+d)` (R253). -/
def execXorAtIx (d : Byte) (s : State) : Result :=
  .next ((s.afterRead (s.ixd d)).xorA (s.read (s.ixd d)))

/-- `XOR (IY+d)` (R254). -/
def execXorAtIy (d : Byte) (s : State) : Result :=
  .next ((s.afterRead (s.iyd d)).xorA (s.read (s.iyd d)))

/-- `OR r` (R255). -/
def execOrR (r : Reg8) (s : State) : Result :=
  .next (s.orA (s.reg r))

/-- `OR n` (R256). -/
def execOrN (n : Byte) (s : State) : Result :=
  .next (s.orA n)

/-- `OR (HL)` (R257). -/
def execOrAtHl (s : State) : Result :=
  .next ((s.afterRead s.hl).orA (s.read s.hl))

/-- `OR (IX+d)` (R258). -/
def execOrAtIx (d : Byte) (s : State) : Result :=
  .next ((s.afterRead (s.ixd d)).orA (s.read (s.ixd d)))

/-- `OR (IY+d)` (R259). -/
def execOrAtIy (d : Byte) (s : State) : Result :=
  .next ((s.afterRead (s.iyd d)).orA (s.read (s.iyd d)))

/-- `CP r` (R260). -/
def execCpR (r : Reg8) (s : State) : Result :=
  .next (s.compareA (s.reg r))

/-- `CP n` (R261). -/
def execCpN (n : Byte) (s : State) : Result :=
  .next (s.compareA n)

/-- `CP (HL)` (R262). -/
def execCpAtHl (s : State) : Result :=
  .next ((s.afterRead s.hl).compareA (s.read s.hl))

/-- `CP (IX+d)` (R263). -/
def execCpAtIx (d : Byte) (s : State) : Result :=
  .next ((s.afterRead (s.ixd d)).compareA (s.read (s.ixd d)))

/-- `CP (IY+d)` (R264). -/
def execCpAtIy (d : Byte) (s : State) : Result :=
  .next ((s.afterRead (s.iyd d)).compareA (s.read (s.iyd d)))

/-- `INC r` (R265). -/
def execIncR (r : Reg8) (s : State) : Result :=
  .next ((s.setReg r (s.reg r + 1#8)).setFlags (inc8Flags s.f (s.reg r)))

/-- `INC (HL)` (R266). -/
def execIncAtHl (s : State) : Result :=
  .next (s.modifyFlags s.hl (· + 1#8) (inc8Flags s.f))

/-- `INC (IX+d)` (R267). -/
def execIncAtIx (d : Byte) (s : State) : Result :=
  .next (s.modifyFlags (s.ixd d) (· + 1#8) (inc8Flags s.f))

/-- `INC (IY+d)` (R268). -/
def execIncAtIy (d : Byte) (s : State) : Result :=
  .next (s.modifyFlags (s.iyd d) (· + 1#8) (inc8Flags s.f))

/-- `DEC r` (R269). -/
def execDecR (r : Reg8) (s : State) : Result :=
  .next ((s.setReg r (s.reg r - 1#8)).setFlags (dec8Flags s.f (s.reg r)))

/-- `DEC (HL)` (R270). -/
def execDecAtHl (s : State) : Result :=
  .next (s.modifyFlags s.hl (· - 1#8) (dec8Flags s.f))

/-- `DEC (IX+d)` (R271). -/
def execDecAtIx (d : Byte) (s : State) : Result :=
  .next (s.modifyFlags (s.ixd d) (· - 1#8) (dec8Flags s.f))

/-- `DEC (IY+d)` (R272). -/
def execDecAtIy (d : Byte) (s : State) : Result :=
  .next (s.modifyFlags (s.iyd d) (· - 1#8) (dec8Flags s.f))

end Sys2Proof.Machine
end

