-- ==== Sys2Proof/Machine/Arith16.lean ====
section
/-! DEFINITION. The 16-bit arithmetic group: one meaning per instruction, on the state after the fetch. -/

namespace Sys2Proof.Machine

/-- `ADD HL,ss` (R283). -/
def execAddHlSs (ss : Pair) (s : State) : Result :=
  .next ((s.setHl (add16 s.hl (s.pair ss) false)).setFlags (add16Flags s.f s.hl (s.pair ss)))

/-- `ADC HL,ss` (R284). -/
def execAdcHlSs (ss : Pair) (s : State) : Result :=
  .next ((s.setHl (add16 s.hl (s.pair ss) s.f.c)).setFlags (adc16Flags s.hl (s.pair ss) s.f.c))

/-- `SBC HL,ss` (R285). -/
def execSbcHlSs (ss : Pair) (s : State) : Result :=
  .next ((s.setHl (sbc16 s.hl (s.pair ss) s.f.c)).setFlags (sbc16Flags s.hl (s.pair ss) s.f.c))

/-- `ADD IX,pp` (R286). -/
def execAddIxPp (pp : IdxPair) (s : State) : Result :=
  .next { s.setFlags (add16Flags s.f s.ix (s.ixPair pp)) with ix := add16 s.ix (s.ixPair pp) false }

/-- `ADD IY,rr` (R287). -/
def execAddIyRr (rr : IdxPair) (s : State) : Result :=
  .next { s.setFlags (add16Flags s.f s.iy (s.iyPair rr)) with iy := add16 s.iy (s.iyPair rr) false }

/-- `INC ss` (R288). -/
def execIncSs (ss : Pair) (s : State) : Result :=
  .next (s.setPair ss (s.pair ss + 1))

/-- `INC IX` (R289). -/
def execIncIx (s : State) : Result :=
  .next { s with ix := s.ix + 1 }

/-- `INC IY` (R290). -/
def execIncIy (s : State) : Result :=
  .next { s with iy := s.iy + 1 }

/-- `DEC ss` (R291). -/
def execDecSs (ss : Pair) (s : State) : Result :=
  .next (s.setPair ss (s.pair ss - 1))

/-- `DEC IX` (R292). -/
def execDecIx (s : State) : Result :=
  .next { s with ix := s.ix - 1 }

/-- `DEC IY` (R293). -/
def execDecIy (s : State) : Result :=
  .next { s with iy := s.iy - 1 }

end Sys2Proof.Machine
end

