-- ==== Sys2Proof/Machine/Bit.lean ====
section
/-! DEFINITION. The bit test, set and reset group: one meaning per instruction, on the state after the fetch. -/

namespace Sys2Proof.Machine

/-- `BIT b` on a value (R360): Z is the complement of the bit, S and P/V are free. -/
def State.testBit (s : State) (b : Nat) (v : Byte) : State :=
  s.setFlagsFree (bitFlags s.f v b)

/-- `BIT b,r` (R360). -/
def execBitR (b : Nat) (r : Reg8) (s : State) : Result :=
  .next (s.testBit b (s.reg r))

/-- `BIT b,(HL)` (R361). -/
def execBitAtHl (b : Nat) (s : State) : Result :=
  .next ((s.afterRead s.hl).testBit b (s.read s.hl))

/-- `BIT b,(IX+d)` (R362). -/
def execBitAtIx (b : Nat) (d : Byte) (s : State) : Result :=
  .next ((s.afterRead (s.ixd d)).testBit b (s.read (s.ixd d)))

/-- `BIT b,(IY+d)` (R363). -/
def execBitAtIy (b : Nat) (d : Byte) (s : State) : Result :=
  .next ((s.afterRead (s.iyd d)).testBit b (s.read (s.iyd d)))

/-- `SET b,r` (R364). -/
def execSetR (b : Nat) (r : Reg8) (s : State) : Result :=
  .next (s.setReg r (setBit b (s.reg r)))

/-- `SET b,(HL)` (R365). -/
def execSetAtHl (b : Nat) (s : State) : Result :=
  .next (s.modify s.hl (setBit b))

/-- `SET b,(IX+d)` (R366). -/
def execSetAtIx (b : Nat) (d : Byte) (s : State) : Result :=
  .next (s.modify (s.ixd d) (setBit b))

/-- `SET b,(IY+d)` (R367). -/
def execSetAtIy (b : Nat) (d : Byte) (s : State) : Result :=
  .next (s.modify (s.iyd d) (setBit b))

/-- `RES b,r` (R368). -/
def execResR (b : Nat) (r : Reg8) (s : State) : Result :=
  .next (s.setReg r (resBit b (s.reg r)))

/-- `RES b,(HL)` (R369). -/
def execResAtHl (b : Nat) (s : State) : Result :=
  .next (s.modify s.hl (resBit b))

/-- `RES b,(IX+d)` (R370). -/
def execResAtIx (b : Nat) (d : Byte) (s : State) : Result :=
  .next (s.modify (s.ixd d) (resBit b))

/-- `RES b,(IY+d)` (R371). -/
def execResAtIy (b : Nat) (d : Byte) (s : State) : Result :=
  .next (s.modify (s.iyd d) (resBit b))

end Sys2Proof.Machine
end

