-- ==== Sys2Proof/Machine/Control.lean ====
section
/-! DEFINITION. The general-purpose arithmetic and CPU control group: one meaning per instruction, on the state after the fetch. -/

namespace Sys2Proof.Machine

/-- `DAA` (R300). -/
def execDaa (s : State) : Result :=
  .next { s.setFlags (daaFlags s.f s.a) with a := daaResult s.f s.a }

/-- `CPL` (R301). -/
def execCpl (s : State) : Result :=
  .next { s.setFlags (cplFlags s.f) with a := ~~~s.a }

/-- `NEG` (R302). -/
def execNeg (s : State) : Result :=
  .next { s.setFlags (sub8Flags 0#8 s.a false) with a := sub8 0#8 s.a false }

/-- `CCF` (R303). -/
def execCcf (s : State) : Result :=
  .next (s.setFlags (ccfFlags s.f))

/-- `SCF` (R304). -/
def execScf (s : State) : Result :=
  .next (s.setFlags (scfFlags s.f))

/-- `NOP` (R305). -/
def execNop (s : State) : Result :=
  .next s

/-- `HALT` (R306). -/
def execHalt (s : State) : Result :=
  .next { s with halted := true }

/-- `DI` (R307). -/
def execDi (s : State) : Result :=
  .next { s with iff1 := false, iff2 := false }

/-- `EI` (R308). -/
def execEi (s : State) : Result :=
  .next { s with iff1 := true, iff2 := true, eiShadow := true }

/-- `IM 0` (R309). -/
def execIm0 (s : State) : Result :=
  .next { s with im := .im0 }

/-- `IM 1` (R310). -/
def execIm1 (s : State) : Result :=
  .next { s with im := .im1 }

/-- `IM 2` (R311). -/
def execIm2 (s : State) : Result :=
  .next { s with im := .im2 }

end Sys2Proof.Machine
end

