-- ==== Sys2Proof/Machine/Exchange.lean ====
section
/-! DEFINITION. The exchange, block transfer and search group: one meaning per instruction, on the state after the fetch. -/

namespace Sys2Proof.Machine

/-- One iteration of a block transfer (R206, R208): the byte at (HL) goes to (DE), both pointers move, BC counts down. -/
def State.blockMove (s : State) (delta : Word) : State :=
  (((((s.afterRead s.hl).write s.de (s.read s.hl)).setDe (s.de + delta)).setHl (s.hl + delta)).setBc (s.bc - 1)).setFlags
    (blockMoveFlags s.f (s.bc - 1))

/-- One iteration of a block search (R210, R212): A is compared with the byte at (HL), HL moves, BC counts down. -/
def State.blockSearch (s : State) (delta : Word) : State :=
  (((s.afterRead s.hl).setHl (s.hl + delta)).setBc (s.bc - 1)).setFlags
    (blockSearchFlags s.f s.a (s.read s.hl) (s.bc - 1))

/-- `EX DE,HL` (R200). -/
def execExDeHl (s : State) : Result :=
  .next ((s.setDe s.hl).setHl s.de)

/-- `EX AF,AF'` (R201). -/
def execExAfAf (s : State) : Result :=
  .next { s with a := s.altA, f := s.altF, altA := s.a, altF := s.f }

/-- `EXX` (R202). -/
def execExx (s : State) : Result :=
  .next { s with
    b := s.altB, c := s.altC, d := s.altD, e := s.altE, h := s.altH, l := s.altL,
    altB := s.b, altC := s.c, altD := s.d, altE := s.e, altH := s.h, altL := s.l }

/-- `EX (SP),HL` (R203). -/
def execExAtSpHl (s : State) : Result :=
  .next ((s.swapTop s.hl).setHl (s.read16 s.sp))

/-- `EX (SP),IX` (R204). -/
def execExAtSpIx (s : State) : Result :=
  .next { s.swapTop s.ix with ix := s.read16 s.sp }

/-- `EX (SP),IY` (R205). -/
def execExAtSpIy (s : State) : Result :=
  .next { s.swapTop s.iy with iy := s.read16 s.sp }

/-- `LDI` (R206). -/
def execLdi (s : State) : Result :=
  .next (s.blockMove 1#16)

/-- `LDIR` (R207). -/
def execLdir (s : State) : Result :=
  .next ((s.blockMove 1#16).repeatIf (s.bc - 1 != 0#16))

/-- `LDD` (R208). -/
def execLdd (s : State) : Result :=
  .next (s.blockMove (-1#16))

/-- `LDDR` (R209). -/
def execLddr (s : State) : Result :=
  .next ((s.blockMove (-1#16)).repeatIf (s.bc - 1 != 0#16))

/-- `CPI` (R210). -/
def execCpi (s : State) : Result :=
  .next (s.blockSearch 1#16)

/-- `CPIR` (R211). -/
def execCpir (s : State) : Result :=
  .next ((s.blockSearch 1#16).repeatIf (s.bc - 1 != 0#16 && s.a - s.read s.hl != 0#8))

/-- `CPD` (R212). -/
def execCpd (s : State) : Result :=
  .next (s.blockSearch (-1#16))

/-- `CPDR` (R213). -/
def execCpdr (s : State) : Result :=
  .next ((s.blockSearch (-1#16)).repeatIf (s.bc - 1 != 0#16 && s.a - s.read s.hl != 0#8))

end Sys2Proof.Machine
end

