-- ==== Sys2Proof/Machine/Io.lean ====
section
/-! DEFINITION. The input and output group: one meaning per instruction, on the state after the fetch. -/

namespace Sys2Proof.Machine

/-- One iteration of a block input (R382, R384): the port is addressed by BC with B before its decrement. -/
def State.blockIn (s : State) (delta : Word) : State :=
  ({ (s.afterInput s.bc).write s.hl (s.input s.bc) with b := s.b - 1 }.setHl (s.hl + delta)).setFlagsFree
    (blockIoFlags (s.b - 1))

/-- One iteration of a block output (R388, R390): the port is addressed by BC with B after its decrement. -/
def State.blockOut (s : State) (delta : Word) : State :=
  ({ (s.afterRead s.hl).output (wordOf (s.b - 1) s.c) (s.read s.hl) with b := s.b - 1 }.setHl (s.hl + delta)).setFlagsFree
    (blockIoFlags (s.b - 1))

/-- `IN A,(n)` (R380). -/
def execInAN (n : Byte) (s : State) : Result :=
  .next { s.afterInput (wordOf s.a n) with a := s.input (wordOf s.a n) }

/-- `IN r,(C)` (R381). -/
def execInRC (r : Reg8) (s : State) : Result :=
  .next (((s.afterInput s.bc).setReg r (s.input s.bc)).setFlags (byteFlags s.f (s.input s.bc)))

/-- `INI` (R382). -/
def execIni (s : State) : Result :=
  .next (s.blockIn 1#16)

/-- `INIR` (R383). -/
def execInir (s : State) : Result :=
  .next ((s.blockIn 1#16).repeatIf (s.b - 1 != 0#8))

/-- `IND` (R384). -/
def execInd (s : State) : Result :=
  .next (s.blockIn (-1#16))

/-- `INDR` (R385). -/
def execIndr (s : State) : Result :=
  .next ((s.blockIn (-1#16)).repeatIf (s.b - 1 != 0#8))

/-- `OUT (n),A` (R386). -/
def execOutNA (n : Byte) (s : State) : Result :=
  .next (s.output (wordOf s.a n) s.a)

/-- `OUT (C),r` (R387). -/
def execOutCR (r : Reg8) (s : State) : Result :=
  .next (s.output s.bc (s.reg r))

/-- `OUTI` (R388). -/
def execOuti (s : State) : Result :=
  .next (s.blockOut 1#16)

/-- `OTIR` (R389). -/
def execOtir (s : State) : Result :=
  .next ((s.blockOut 1#16).repeatIf (s.b - 1 != 0#8))

/-- `OUTD` (R390). -/
def execOutd (s : State) : Result :=
  .next (s.blockOut (-1#16))

/-- `OTDR` (R391). -/
def execOtdr (s : State) : Result :=
  .next ((s.blockOut (-1#16)).repeatIf (s.b - 1 != 0#8))

end Sys2Proof.Machine
end

