-- ==== Sys2Proof/Machine/Jump.lean ====
section
/-! DEFINITION. The jump, call and return groups: one meaning per instruction, on the state after the fetch. -/

namespace Sys2Proof.Machine

/-- `JP nn` (R400). -/
def execJpNn (nn : Word) (s : State) : Result :=
  .next (s.jump nn)

/-- `JP cc,nn` (R401). -/
def execJpCcNn (cc : Cond) (nn : Word) (s : State) : Result :=
  .next (if s.f.holds cc then s.jump nn else s)

/-- `JR e` (R402). -/
def execJrE (e : Byte) (s : State) : Result :=
  .next (s.jump (s.relative e))

/-- `JR C,e` (R403). -/
def execJrCE (e : Byte) (s : State) : Result :=
  .next (if s.f.holds .c then s.jump (s.relative e) else s)

/-- `JR NC,e` (R404). -/
def execJrNcE (e : Byte) (s : State) : Result :=
  .next (if s.f.holds .nc then s.jump (s.relative e) else s)

/-- `JR Z,e` (R405). -/
def execJrZE (e : Byte) (s : State) : Result :=
  .next (if s.f.holds .z then s.jump (s.relative e) else s)

/-- `JR NZ,e` (R406). -/
def execJrNzE (e : Byte) (s : State) : Result :=
  .next (if s.f.holds .nz then s.jump (s.relative e) else s)

/-- `JP (HL)` (R407). -/
def execJpHl (s : State) : Result :=
  .next (s.jump s.hl)

/-- `JP (IX)` (R408). -/
def execJpIx (s : State) : Result :=
  .next (s.jump s.ix)

/-- `JP (IY)` (R409). -/
def execJpIy (s : State) : Result :=
  .next (s.jump s.iy)

/-- `DJNZ e` (R410). -/
def execDjnzE (e : Byte) (s : State) : Result :=
  .next (let t : State := { s with b := s.b - 1 }; if t.b != 0#8 then t.jump (t.relative e) else t)

/-- `CALL nn` (R411). -/
def execCallNn (nn : Word) (s : State) : Result :=
  .next (s.callTo nn)

/-- `CALL cc,nn` (R412). -/
def execCallCcNn (cc : Cond) (nn : Word) (s : State) : Result :=
  .next (if s.f.holds cc then s.callTo nn else s)

/-- `RET` (R413). -/
def execRet (s : State) : Result :=
  .next s.returnPop

/-- `RET cc` (R414). -/
def execRetCc (cc : Cond) (s : State) : Result :=
  .next (if s.f.holds cc then s.returnPop else s)

/-- `RETI` (R415). -/
def execReti (s : State) : Result :=
  .next s.returnInt

/-- `RETN` (R416). -/
def execRetn (s : State) : Result :=
  .next s.returnNmi

/-- `RST p` (R417). -/
def execRstP (p : Byte) (s : State) : Result :=
  .next (s.callTo (wordOf 0#8 p))

end Sys2Proof.Machine
end

