-- ==== Sys2Proof/Machine/Load16.lean ====
section
/-! DEFINITION. The 16-bit load group, PUSH and POP: one meaning per instruction, on the state after the fetch. -/

namespace Sys2Proof.Machine

/-- `LD dd,nn` (R171). -/
def execLdDdNn (dd : Pair) (nn : Word) (s : State) : Result :=
  .next (s.setPair dd nn)

/-- `LD IX,nn` (R172). -/
def execLdIxNn (nn : Word) (s : State) : Result :=
  .next { s with ix := nn }

/-- `LD IY,nn` (R173). -/
def execLdIyNn (nn : Word) (s : State) : Result :=
  .next { s with iy := nn }

/-- `LD HL,(nn)` (R174). -/
def execLdHlAtNn (nn : Word) (s : State) : Result :=
  .next ((s.afterRead16 nn).setHl (s.read16 nn))

/-- `LD dd,(nn)` (R175). -/
def execLdDdAtNn (dd : Pair) (nn : Word) (s : State) : Result :=
  .next ((s.afterRead16 nn).setPair dd (s.read16 nn))

/-- `LD IX,(nn)` (R176). -/
def execLdIxAtNn (nn : Word) (s : State) : Result :=
  .next { s.afterRead16 nn with ix := s.read16 nn }

/-- `LD IY,(nn)` (R177). -/
def execLdIyAtNn (nn : Word) (s : State) : Result :=
  .next { s.afterRead16 nn with iy := s.read16 nn }

/-- `LD (nn),HL` (R178). -/
def execLdAtNnHl (nn : Word) (s : State) : Result :=
  .next (s.write16 nn s.hl)

/-- `LD (nn),dd` (R179). -/
def execLdAtNnDd (nn : Word) (dd : Pair) (s : State) : Result :=
  .next (s.write16 nn (s.pair dd))

/-- `LD (nn),IX` (R180). -/
def execLdAtNnIx (nn : Word) (s : State) : Result :=
  .next (s.write16 nn s.ix)

/-- `LD (nn),IY` (R181). -/
def execLdAtNnIy (nn : Word) (s : State) : Result :=
  .next (s.write16 nn s.iy)

/-- `LD SP,HL` (R182). -/
def execLdSpHl (s : State) : Result :=
  .next { s with sp := s.hl }

/-- `LD SP,IX` (R183). -/
def execLdSpIx (s : State) : Result :=
  .next { s with sp := s.ix }

/-- `LD SP,IY` (R184). -/
def execLdSpIy (s : State) : Result :=
  .next { s with sp := s.iy }

/-- `PUSH qq` (R185). -/
def execPushQq (qq : StackPair) (s : State) : Result :=
  .next (s.push16 (s.stackPair qq))

/-- `PUSH IX` (R186). -/
def execPushIx (s : State) : Result :=
  .next (s.push16 s.ix)

/-- `PUSH IY` (R187). -/
def execPushIy (s : State) : Result :=
  .next (s.push16 s.iy)

/-- `POP qq` (R188). -/
def execPopQq (qq : StackPair) (s : State) : Result :=
  .next (s.afterPop16.setStackPair qq s.pop16)

/-- `POP IX` (R189). -/
def execPopIx (s : State) : Result :=
  .next { s.afterPop16 with ix := s.pop16 }

/-- `POP IY` (R190). -/
def execPopIy (s : State) : Result :=
  .next { s.afterPop16 with iy := s.pop16 }

end Sys2Proof.Machine
end

