-- ==== Sys2Proof/Machine/Load8.lean ====
section
/-! DEFINITION. The 8-bit load group: one meaning per instruction, on the state after the fetch. -/

namespace Sys2Proof.Machine

/-- `LD r,r'` (R141). -/
def execLdRR (r : Reg8) (r' : Reg8) (s : State) : Result :=
  .next (s.setReg r (s.reg r'))

/-- `LD r,n` (R142). -/
def execLdRN (r : Reg8) (n : Byte) (s : State) : Result :=
  .next (s.setReg r n)

/-- `LD r,(HL)` (R143). -/
def execLdRAtHl (r : Reg8) (s : State) : Result :=
  .next ((s.afterRead s.hl).setReg r (s.read s.hl))

/-- `LD r,(IX+d)` (R144). -/
def execLdRAtIx (r : Reg8) (d : Byte) (s : State) : Result :=
  .next ((s.afterRead (s.ixd d)).setReg r (s.read (s.ixd d)))

/-- `LD r,(IY+d)` (R145). -/
def execLdRAtIy (r : Reg8) (d : Byte) (s : State) : Result :=
  .next ((s.afterRead (s.iyd d)).setReg r (s.read (s.iyd d)))

/-- `LD (HL),r` (R146). -/
def execLdAtHlR (r : Reg8) (s : State) : Result :=
  .next (s.write s.hl (s.reg r))

/-- `LD (IX+d),r` (R147). -/
def execLdAtIxR (d : Byte) (r : Reg8) (s : State) : Result :=
  .next (s.write (s.ixd d) (s.reg r))

/-- `LD (IY+d),r` (R148). -/
def execLdAtIyR (d : Byte) (r : Reg8) (s : State) : Result :=
  .next (s.write (s.iyd d) (s.reg r))

/-- `LD (HL),n` (R149). -/
def execLdAtHlN (n : Byte) (s : State) : Result :=
  .next (s.write s.hl n)

/-- `LD (IX+d),n` (R150). -/
def execLdAtIxN (d : Byte) (n : Byte) (s : State) : Result :=
  .next (s.write (s.ixd d) n)

/-- `LD (IY+d),n` (R151). -/
def execLdAtIyN (d : Byte) (n : Byte) (s : State) : Result :=
  .next (s.write (s.iyd d) n)

/-- `LD A,(BC)` (R152). -/
def execLdAAtBc (s : State) : Result :=
  .next { s.afterRead s.bc with a := s.read s.bc }

/-- `LD A,(DE)` (R153). -/
def execLdAAtDe (s : State) : Result :=
  .next { s.afterRead s.de with a := s.read s.de }

/-- `LD A,(nn)` (R154). -/
def execLdAAtNn (nn : Word) (s : State) : Result :=
  .next { s.afterRead nn with a := s.read nn }

/-- `LD (BC),A` (R155). -/
def execLdAtBcA (s : State) : Result :=
  .next (s.write s.bc s.a)

/-- `LD (DE),A` (R156). -/
def execLdAtDeA (s : State) : Result :=
  .next (s.write s.de s.a)

/-- `LD (nn),A` (R157). -/
def execLdAtNnA (nn : Word) (s : State) : Result :=
  .next (s.write nn s.a)

/-- `LD A,I` (R158). -/
def execLdAIreg (s : State) : Result :=
  .next { s.setFlags (ldAIFlags s.f s.i s.iff2) with a := s.i, iffRead := true }

/-- `LD A,R` (R159). -/
def execLdARreg (s : State) : Result :=
  .next { s.setFlags (ldAIFlags s.f s.r s.iff2) with a := s.r, iffRead := true }

/-- `LD I,A` (R160). -/
def execLdIregA (s : State) : Result :=
  .next { s with i := s.a }

/-- `LD R,A` (R161). -/
def execLdRregA (s : State) : Result :=
  .next { s with r := s.a }

end Sys2Proof.Machine
end

