-- ==== Sys2Proof/Machine/Rotate.lean ====
section
/-! DEFINITION. The rotate and shift group: one meaning per instruction, on the state after the fetch. -/

namespace Sys2Proof.Machine

/-- A rotate of A that writes only H, N and C (R321 to R324). -/
def State.rotateA (s : State) (k : RotKind) : State :=
  { s.setFlags (rotAFlags s.f (rotCarry k s.a)) with a := rotResult k s.f.c s.a }

/-- `r8[sss] <- rot(kind, r8[sss])` (R320). -/
def State.rotateReg (s : State) (k : RotKind) (r : Reg8) : State :=
  (s.setReg r (rotResult k s.f.c (s.reg r))).setFlags (rotFlags (rotResult k s.f.c (s.reg r)) (rotCarry k (s.reg r)))

/-- `MemWrite(EA, 1, rot(kind, MemRead(EA, 1)))` (R320). -/
def State.rotateAt (s : State) (k : RotKind) (a : Word) : State :=
  s.modifyFlags a (rotResult k s.f.c) (fun v => rotFlags (rotResult k s.f.c v) (rotCarry k v))

/-- A digit rotation between A and (HL) (R353, R354): `toMem` and `toA` give the new byte and the new A from the old A and byte. -/
def State.digits (s : State) (toMem toA : Byte → Byte → Byte) : State :=
  { (s.modify s.hl (toMem s.a)).setFlags (byteFlags s.f (toA s.a (s.read s.hl))) with a := toA s.a (s.read s.hl) }

/-- `RLCA` (R321). -/
def execRlca (s : State) : Result :=
  .next (s.rotateA .rlc)

/-- `RLA` (R322). -/
def execRla (s : State) : Result :=
  .next (s.rotateA .rl)

/-- `RRCA` (R323). -/
def execRrca (s : State) : Result :=
  .next (s.rotateA .rrc)

/-- `RRA` (R324). -/
def execRra (s : State) : Result :=
  .next (s.rotateA .rr)

/-- `RLC r` (R325). -/
def execRlcR (r : Reg8) (s : State) : Result :=
  .next (s.rotateReg .rlc r)

/-- `RLC (HL)` (R326). -/
def execRlcAtHl (s : State) : Result :=
  .next (s.rotateAt .rlc s.hl)

/-- `RLC (IX+d)` (R327). -/
def execRlcAtIx (d : Byte) (s : State) : Result :=
  .next (s.rotateAt .rlc (s.ixd d))

/-- `RLC (IY+d)` (R328). -/
def execRlcAtIy (d : Byte) (s : State) : Result :=
  .next (s.rotateAt .rlc (s.iyd d))

/-- `RL r` (R329). -/
def execRlR (r : Reg8) (s : State) : Result :=
  .next (s.rotateReg .rl r)

/-- `RL (HL)` (R330). -/
def execRlAtHl (s : State) : Result :=
  .next (s.rotateAt .rl s.hl)

/-- `RL (IX+d)` (R331). -/
def execRlAtIx (d : Byte) (s : State) : Result :=
  .next (s.rotateAt .rl (s.ixd d))

/-- `RL (IY+d)` (R332). -/
def execRlAtIy (d : Byte) (s : State) : Result :=
  .next (s.rotateAt .rl (s.iyd d))

/-- `RRC r` (R333). -/
def execRrcR (r : Reg8) (s : State) : Result :=
  .next (s.rotateReg .rrc r)

/-- `RRC (HL)` (R334). -/
def execRrcAtHl (s : State) : Result :=
  .next (s.rotateAt .rrc s.hl)

/-- `RRC (IX+d)` (R335). -/
def execRrcAtIx (d : Byte) (s : State) : Result :=
  .next (s.rotateAt .rrc (s.ixd d))

/-- `RRC (IY+d)` (R336). -/
def execRrcAtIy (d : Byte) (s : State) : Result :=
  .next (s.rotateAt .rrc (s.iyd d))

/-- `RR r` (R337). -/
def execRrR (r : Reg8) (s : State) : Result :=
  .next (s.rotateReg .rr r)

/-- `RR (HL)` (R338). -/
def execRrAtHl (s : State) : Result :=
  .next (s.rotateAt .rr s.hl)

/-- `RR (IX+d)` (R339). -/
def execRrAtIx (d : Byte) (s : State) : Result :=
  .next (s.rotateAt .rr (s.ixd d))

/-- `RR (IY+d)` (R340). -/
def execRrAtIy (d : Byte) (s : State) : Result :=
  .next (s.rotateAt .rr (s.iyd d))

/-- `SLA r` (R341). -/
def execSlaR (r : Reg8) (s : State) : Result :=
  .next (s.rotateReg .sla r)

/-- `SLA (HL)` (R342). -/
def execSlaAtHl (s : State) : Result :=
  .next (s.rotateAt .sla s.hl)

/-- `SLA (IX+d)` (R343). -/
def execSlaAtIx (d : Byte) (s : State) : Result :=
  .next (s.rotateAt .sla (s.ixd d))

/-- `SLA (IY+d)` (R344). -/
def execSlaAtIy (d : Byte) (s : State) : Result :=
  .next (s.rotateAt .sla (s.iyd d))

/-- `SRA r` (R345). -/
def execSraR (r : Reg8) (s : State) : Result :=
  .next (s.rotateReg .sra r)

/-- `SRA (HL)` (R346). -/
def execSraAtHl (s : State) : Result :=
  .next (s.rotateAt .sra s.hl)

/-- `SRA (IX+d)` (R347). -/
def execSraAtIx (d : Byte) (s : State) : Result :=
  .next (s.rotateAt .sra (s.ixd d))

/-- `SRA (IY+d)` (R348). -/
def execSraAtIy (d : Byte) (s : State) : Result :=
  .next (s.rotateAt .sra (s.iyd d))

/-- `SRL r` (R349). -/
def execSrlR (r : Reg8) (s : State) : Result :=
  .next (s.rotateReg .srl r)

/-- `SRL (HL)` (R350). -/
def execSrlAtHl (s : State) : Result :=
  .next (s.rotateAt .srl s.hl)

/-- `SRL (IX+d)` (R351). -/
def execSrlAtIx (d : Byte) (s : State) : Result :=
  .next (s.rotateAt .srl (s.ixd d))

/-- `SRL (IY+d)` (R352). -/
def execSrlAtIy (d : Byte) (s : State) : Result :=
  .next (s.rotateAt .srl (s.iyd d))

/-- `RLD` (R353). -/
def execRld (s : State) : Result :=
  .next (s.digits (fun a m => m.extractLsb' 0 4 ++ a.extractLsb' 0 4) (fun a m => a.extractLsb' 4 4 ++ m.extractLsb' 4 4))

/-- `RRD` (R354). -/
def execRrd (s : State) : Result :=
  .next (s.digits (fun a m => a.extractLsb' 0 4 ++ m.extractLsb' 4 4) (fun a m => a.extractLsb' 4 4 ++ m.extractLsb' 0 4))

end Sys2Proof.Machine
end

