-- ==== Sys2Proof/Machine/Fetch.lean ====
section
/-! DEFINITION. Fetching an instruction byte by byte (R101, R128), and placing bytes where the next fetch reads them. -/

namespace Sys2Proof.Machine

/-- The next byte is read by an M1 cycle: the first byte, and the byte after a prefix (R74, R101). -/
def isM1Byte : List Byte → Bool
  | [] => true
  | [pre] => isPrefixByte pre
  | _ => false

/-- The state after one instruction byte is fetched (R101): the read cycle, R counted in an M1 cycle, PC moved on. -/
def State.afterFetchByte (s : State) (m1 : Bool) : State :=
  let t := if m1 then (s.afterRead s.pc).m1 else s.afterRead s.pc
  { t with pc := s.pc + 1 }

/-- Fetch on from the bytes already read, at most `fuel` more: the instruction and the state after its last byte, or none for
an undocumented byte sequence (R126, R128). -/
def fetchFrom (fuel : Nat) (bs : List Byte) (s : State) : Option (Instr × State) :=
  match fuel with
  | 0 => none
  | fuel + 1 =>
    match decodeBytes (bs ++ [s.read s.pc]) with
    | .ok i _ => some (i, s.afterFetchByte (isM1Byte bs))
    | .more => fetchFrom fuel (bs ++ [s.read s.pc]) (s.afterFetchByte (isM1Byte bs))
    | .undocumented => none

/-- The start of an instruction: `ei_shadow` and the model's own `iffRead` are cleared (R43, log 6). -/
def State.beginInstr (s : State) : State := { s with eiShadow := false, iffRead := false }

/-- Fetch the next instruction: no instruction is longer than four bytes (R100). -/
def State.fetch (s : State) : Option (Instr × State) := fetchFrom 4 [] s.beginInstr

/-- Bytes placed in memory from outside the machine, at ascending addresses modulo 2^16 (log 19). -/
def Platform.place (p : Platform) (a : Word) : List Byte → Platform
  | [] => p
  | v :: vs => Platform.place { p with mem := memWrite p.mem a.toNat v } (a + 1) vs

/-- The address answers a fetch with what `Mem` holds (R5). -/
def Platform.backed (p : Platform) (a : Word) : Bool :=
  match p.kindAt a with
  | .ram | .rom => true
  | .unmapped | .device => false

/-- The memory map under which the four bytes at an address can be fetched: unchanged if they can be now, else all RAM. -/
def Platform.fetchableMap (p : Platform) (a : Word) : List Region :=
  if p.backed a && p.backed (a + 1) && p.backed (a + 2) && p.backed (a + 3) then p.memMap else []

/-- The state in which the next step fetches exactly these bytes: they stand at PC, nothing halts the CPU, interrupts it or
takes the bus before they are read. -/
def State.withProgramBytes (s : State) (bs : List Byte) : State :=
  { s with
    halted := false, nmiPending := false, intLow := false, resetLow := false
    plat := Platform.place { s.plat with grants := [], memMap := s.plat.fetchableMap s.pc } s.pc bs }

end Sys2Proof.Machine
end

