-- ==== Sys2Proof/Machine/Timing.lean ====
section
/-! DEFINITION. The T states of each instruction and response (R496, R497), for the ghost counter `clock` of R498 (log 16). -/

namespace Sys2Proof.Machine

/-- T states of an instruction without wait states (R496); `s` is the state the instruction's meaning is given. -/
def tStates (i : Instr) (s : State) : Nat :=
  match i with
  | .ldRR _ _ | .exDeHl | .exAfAf | .exx | .addAR _ | .adcAR _ | .subR _ | .sbcAR _ | .andR _ | .xorR _
  | .orR _ | .cpR _ | .incR _ | .decR _ | .daa | .cpl | .ccf | .scf | .nop | .di | .ei | .rlca | .rla | .rrca
  | .rra | .jpHl => 4
  | .ldSpHl | .incSs _ | .decSs _ => 6
  | .ldRN _ _ | .ldRAtHl _ | .ldAtHlR _ | .ldAAtBc | .ldAAtDe | .ldAtBcA | .ldAtDeA | .addAN _ | .addAAtHl
  | .adcAN _ | .adcAAtHl | .subN _ | .subAtHl | .sbcAN _ | .sbcAAtHl | .andN _ | .andAtHl | .xorN _ | .xorAtHl
  | .orN _ | .orAtHl | .cpN _ | .cpAtHl => 7
  | .neg | .im0 | .im1 | .im2 | .rlcR _ | .rlR _ | .rrcR _ | .rrR _ | .slaR _ | .sraR _ | .srlR _ | .bitR _ _
  | .setR _ _ | .resR _ _ | .jpIx | .jpIy => 8
  | .ldAIreg | .ldARreg | .ldIregA | .ldRregA => 9
  | .ldAtHlN _ | .ldDdNn _ _ | .ldSpIx | .ldSpIy | .popQq _ | .incIx | .incIy | .decIx | .decIy | .jpNn _
  | .jpCcNn _ _ | .ret => 10
  | .pushQq _ | .incAtHl | .decAtHl | .addHlSs _ | .inAN _ | .outNA _ | .rstP _ => 11
  | .bitAtHl _ | .inRC _ | .outCR _ | .jrE _ => 12
  | .ldAAtNn _ | .ldAtNnA _ => 13
  | .ldIxNn _ | .ldIyNn _ | .popIx | .popIy | .reti | .retn => 14
  | .pushIx | .pushIy | .adcHlSs _ | .sbcHlSs _ | .addIxPp _ | .addIyRr _ | .rlcAtHl | .rlAtHl | .rrcAtHl
  | .rrAtHl | .slaAtHl | .sraAtHl | .srlAtHl | .setAtHl _ | .resAtHl _ => 15
  | .ldHlAtNn _ | .ldAtNnHl _ | .ldi | .ldd | .cpi | .cpd | .ini | .ind | .outi | .outd => 16
  | .callNn _ => 17
  | .rld | .rrd => 18
  | .ldRAtIx _ _ | .ldRAtIy _ _ | .ldAtIxR _ _ | .ldAtIyR _ _ | .ldAtIxN _ _ | .ldAtIyN _ _ | .exAtSpHl
  | .addAAtIx _ | .addAAtIy _ | .adcAAtIx _ | .adcAAtIy _ | .subAtIx _ | .subAtIy _ | .sbcAAtIx _ | .sbcAAtIy _
  | .andAtIx _ | .andAtIy _ | .xorAtIx _ | .xorAtIy _ | .orAtIx _ | .orAtIy _ | .cpAtIx _ | .cpAtIy _ => 19
  | .ldDdAtNn _ _ | .ldIxAtNn _ | .ldIyAtNn _ | .ldAtNnDd _ _ | .ldAtNnIx _ | .ldAtNnIy _ | .bitAtIx _ _
  | .bitAtIy _ _ => 20
  | .exAtSpIx | .exAtSpIy | .incAtIx _ | .incAtIy _ | .decAtIx _ | .decAtIy _ | .rlcAtIx _ | .rlcAtIy _
  | .rlAtIx _ | .rlAtIy _ | .rrcAtIx _ | .rrcAtIy _ | .rrAtIx _ | .rrAtIy _ | .slaAtIx _ | .slaAtIy _
  | .sraAtIx _ | .sraAtIy _ | .srlAtIx _ | .srlAtIy _ | .setAtIx _ _ | .setAtIy _ _ | .resAtIx _ _
  | .resAtIy _ _ => 23
  | .ldir => if s.bc - 1 != 0#16 then 21 else 16
  | .lddr => if s.bc - 1 != 0#16 then 21 else 16
  | .cpir => if s.bc - 1 != 0#16 && s.a - s.read s.hl != 0#8 then 21 else 16
  | .cpdr => if s.bc - 1 != 0#16 && s.a - s.read s.hl != 0#8 then 21 else 16
  | .halt => 4
  | .inir => if s.b - 1 != 0#8 then 21 else 16
  | .indr => if s.b - 1 != 0#8 then 21 else 16
  | .otir => if s.b - 1 != 0#8 then 21 else 16
  | .otdr => if s.b - 1 != 0#8 then 21 else 16
  | .jrCE _ => if s.f.c then 12 else 7
  | .jrNcE _ => if s.f.c then 7 else 12
  | .jrZE _ => if s.f.z then 12 else 7
  | .jrNzE _ => if s.f.z then 7 else 12
  | .djnzE _ => if s.b - 1 != 0#8 then 13 else 8
  | .callCcNn cc _ => if s.f.holds cc then 17 else 10
  | .retCc cc => if s.f.holds cc then 11 else 5

/-- T states of one halted cycle (R455, R496, R497). -/
def haltTStates : Nat := 4

/-- T states of the NMI response (R497). -/
def nmiTStates : Nat := 11

/-- T states of the INT response in each mode (R497). -/
def intTStates : IntMode → Nat
  | .im0 | .im1 => 13
  | .im2 => 19

/-- The ghost counter advanced (R498). -/
def State.tick (s : State) (t : Nat) : State := { s with clock := s.clock + t }

end Sys2Proof.Machine
end

