-- ==== Sys2Proof/Machine/Step.lean ====
section
/-! DEFINITION. One step of the machine (R3, D1): RESET, an interrupt acceptance, a halted cycle or one instruction. -/

namespace Sys2Proof.Machine

/-- What follows an instruction's effect: its T states are counted and the inputs are sampled (R437, R498). -/
def State.finishInstr (t : State) (cycles : Nat) : State := (t.tick cycles).sampleInputs

/-- An instruction fetched and executed, the inputs sampled at its end (R437). -/
def stepInstr (s : State) : Result :=
  match s.fetch with
  | none => .refused .undocumentedOpcode
  | some (i, s1) =>
    match exec i s1 with
    | .next t => .next (t.finishInstr (tStates i s1))
    | .fault x => .fault x
    | .refused x => .refused x

/-- One step, the events in the priority order of R436. -/
def step (s : State) : Host.Outcome State Fault Refusal :=
  if s.resetLow then .next s.applyReset
  else if s.nmiPending then .next (s.acceptNmi.tick nmiTStates)
  else if s.intAccepted then
    match s.acceptInt with
    | .next t => .next (t.tick (intTStates s.im))
    | .fault x => .fault x
    | .refused x => .refused x
  else if s.halted then .next (s.haltCycle.finishInstr haltTStates)
  else stepInstr s

/-- The instruction whose bits are `w`, stored where the next step fetches (log 18, log 19). -/
def State.withFetchWord (s : State) (nbits w : Nat) : State :=
  s.withProgramBytes (tableBytesPadded nbits w)

end Sys2Proof.Machine
end

