-- ==== Sys2Proof/Machine/Run.lean ====
section
/-! DEFINITION. A run and its end (R499, D18). The ISA has no exit: `step` goes on from a halted state. -/

namespace Sys2Proof.Machine

/-- The entry asks for something: INT low, an NMI edge or a RESET. -/
def eventful (x : Sample) : Bool := x.int || x.nmiEdge || x.reset

/-- An interrupt source is scheduled: an event already sampled is taken by the next step, or an entry to come asks for one.
That a masked INT to come counts, and RESET too, is DESIGN CHOICE, safe (log 27). -/
def State.eventAhead (s : State) : Bool :=
  s.resetLow || s.nmiPending || s.intAccepted || s.schedule.any eventful

/-- The run has ended: halted, and no interrupt source is scheduled (R499, D18). -/
def State.runEnded (s : State) : Bool := s.halted && !s.eventAhead

/-- A run to its end, at most `fuel` steps: the first state in which it has ended, or the fault or refusal that stops it before;
`none` when it has not ended by then (R499). -/
def runToEnd : Nat → State → Option Result
  | 0, s => if s.runEnded then some (.next s) else none
  | fuel + 1, s =>
    if s.runEnded then some (.next s)
    else
      match step s with
      | .next t => runToEnd fuel t
      | .fault x => some (.fault x)
      | .refused x => some (.refused x)

/-- A stated number of steps, for a program that has no HALT (R499). One iteration of a repeating instruction is one step
(R214). -/
def runSteps : Nat → State → Result
  | 0, s => .next s
  | n + 1, s =>
    match step s with
    | .next t => runSteps n t
    | .fault x => .fault x
    | .refused x => .refused x

end Sys2Proof.Machine
end

