-- ==== Sys2Proof/Safety.lean ====
section
/-! DEFINITION. The terms statements use: which piece of state changes, what memory reads as, the invariant, a safe step. -/

namespace Sys2Proof.Machine

/-- Every piece of the CPU's own state, the flags of F one by one (`10_state.md` section 1). -/
inductive Loc where
  | a | b | c | d | e | h | l
  | flagS | flagZ | flagX5 | flagH | flagX3 | flagPV | flagN | flagC
  | altA | altF | altB | altC | altD | altE | altH | altL
  | ix | iy | sp | pc | i | r | iff1 | iff2 | im | halted | eiShadow | nmiPending
deriving DecidableEq, Repr

/-- The number of an interrupt mode (R41). -/
def IntMode.num : IntMode → Nat
  | .im0 => 0 | .im1 => 1 | .im2 => 2

/-- What a piece of state holds, as a number. -/
def State.val (s : State) : Loc → Nat
  | .a => s.a.toNat | .b => s.b.toNat | .c => s.c.toNat | .d => s.d.toNat
  | .e => s.e.toNat | .h => s.h.toNat | .l => s.l.toNat
  | .flagS => s.f.s.toNat | .flagZ => s.f.z.toNat | .flagX5 => s.f.x5.toNat | .flagH => s.f.h.toNat
  | .flagX3 => s.f.x3.toNat | .flagPV => s.f.pv.toNat | .flagN => s.f.n.toNat | .flagC => s.f.c.toNat
  | .altA => s.altA.toNat | .altF => s.altF.toByte.toNat | .altB => s.altB.toNat | .altC => s.altC.toNat
  | .altD => s.altD.toNat | .altE => s.altE.toNat | .altH => s.altH.toNat | .altL => s.altL.toNat
  | .ix => s.ix.toNat | .iy => s.iy.toNat | .sp => s.sp.toNat | .pc => s.pc.toNat
  | .i => s.i.toNat | .r => s.r.toNat | .iff1 => s.iff1.toNat | .iff2 => s.iff2.toNat | .im => s.im.num
  | .halted => s.halted.toNat | .eiShadow => s.eiShadow.toNat | .nmiPending => s.nmiPending.toNat

/-- The register an `r` field names, as a piece of state. -/
def regLoc : Reg8 → Loc
  | .b => .b | .c => .c | .d => .d | .e => .e | .h => .h | .l => .l | .a => .a

/-- The bits of F that every flag write leaves open (R37). -/
def xBits : List Loc := [.flagX5, .flagX3]

/-- H, N and C, with the two open bits: what the partial flag writers write (R280, R321). -/
def partialFlags : List Loc := [.flagH, .flagN, .flagC, .flagX5, .flagX3]

/-- All eight bits of F. -/
def allFlags : List Loc := [.flagS, .flagZ, .flagX5, .flagH, .flagX3, .flagPV, .flagN, .flagC]

/-- All of F but C: INC, DEC, RLD, RRD, BIT, `IN r,(C)`, the block searches, LD A,I, LD A,R keep C. -/
def flagsButC : List Loc := [.flagS, .flagZ, .flagX5, .flagH, .flagX3, .flagPV, .flagN]

/-- The two halves of a pair of R105, as pieces of state. -/
def pairLocs : Pair → List Loc
  | .bc => [.b, .c] | .de => [.d, .e] | .hl => [.h, .l] | .sp => [.sp]

/-- The two halves of a pair of R106, as pieces of state. -/
def stackPairLocs : StackPair → List Loc
  | .bc => [.b, .c] | .de => [.d, .e] | .hl => [.h, .l] | .af => .a :: allFlags

/-- Nothing of the CPU's own state has changed but what the list names. -/
def Frame (s t : State) (changed : List Loc) : Prop := ∀ x : Loc, x ∉ changed → t.val x = s.val x

/-- Every byte of memory reads as before. -/
def SameMem (s t : State) : Prop := ∀ x : Word, t.peek x = s.peek x

/-- After one byte `v` is stored at `a`: at `a` stands `v` if RAM answers there, else what stood there; every other byte reads
as before (R73, R85). -/
def Stored (s t : State) (a : Word) (v : Byte) : Prop :=
  t.peek a = (if s.plat.kindAt a = .ram then v else s.peek a) ∧ ∀ x : Word, x ≠ a → t.peek x = s.peek x

/-- After the word `v` is stored low byte at `a`, high byte at `a + 1`: each byte stands where RAM answers, else what stood
there; every other byte reads as before (R77, R85). -/
def Stored16 (s t : State) (a : Word) (v : Word) : Prop :=
  t.peek a = (if s.plat.kindAt a = .ram then loByte v else s.peek a) ∧
  t.peek (a + 1) = (if s.plat.kindAt (a + 1) = .ram then hiByte v else s.peek (a + 1)) ∧
  ∀ x : Word, x ≠ a → x ≠ a + 1 → t.peek x = s.peek x

/-- No other bus master takes the bus (the default of R5, D11). -/
def Quiet (s : State) : Prop := s.plat.grants = []

/-- The six flags agree; bits 5 and 3 are not compared (R37). -/
def FlagsAre (f g : Flags) : Prop :=
  f.s = g.s ∧ f.z = g.z ∧ f.h = g.h ∧ f.pv = g.pv ∧ f.n = g.n ∧ f.c = g.c

/-- The next step is an instruction: no RESET, no interrupt accepted, not halted (R436, R447, R455). -/
def Running (s : State) : Prop :=
  s.resetLow = false ∧ s.nmiPending = false ∧ s.intAccepted = false ∧ s.halted = false

/-- How many M1 cycles the fetch of an instruction has (R491). -/
def m1Cycles (i : Instr) : Nat :=
  match encode i with
  | op :: _ => if isPrefixByte op then 2 else 1
  | [] => 0

/-- R after `n` M1 cycles (R28). -/
def refreshBy : Nat → Byte → Byte
  | 0, r => r
  | n + 1, r => refreshBy n (refreshNext r)

/-- The state in which an instruction's meaning starts when its bytes come from plain memory and nobody takes the bus: PC past
the instruction, its M1 cycles counted in R, `ei_shadow` cleared (R101, R28, R43). -/
def State.fetched (s : State) (i : Instr) : State :=
  { s with
    pc := s.pc + BitVec.ofNat 16 (encode i).length, r := refreshBy (m1Cycles i) s.r,
    eiShadow := false, iffRead := false }

/-- The bytes of an instruction stand at PC where memory answers with what it holds. -/
def HoldsAtPc (s : State) (i : Instr) : Prop :=
  ∀ k : Nat, (h : k < (encode i).length) →
    s.plat.backed (s.pc + BitVec.ofNat 16 k) = true ∧ s.peek (s.pc + BitVec.ofNat 16 k) = (encode i)[k]

/-- The invariant every step keeps: memory is in its canonical form; interrupts enabled implies that the copy IFF2 is set, and
so does a pending EI delay (R40, R43, R445, R448). -/
def State.Inv (s : State) : Prop :=
  Memory.wf s.plat.mem = true ∧ (s.iff1 = true → s.iff2 = true) ∧ (s.eiShadow = true → s.iff2 = true)

/-- What a sampling point leaves (R437, R440, R441, R44, D10): an NMI edge in the entry sets `nmi_pending`, which is otherwise
kept; INT, the byte driven and RESET are those of the entry. With no entry INT is high and nothing else happens. -/
def Sampled (s t : State) : Prop :=
  match s.schedule with
  | [] => t.schedule = [] ∧ t.intLow = false ∧ t.intData = none ∧ t.nmiPending = s.nmiPending ∧ t.resetLow = s.resetLow
  | x :: rest => t.schedule = rest ∧ t.intLow = x.int ∧ t.intData = x.data ∧
      t.nmiPending = (s.nmiPending || x.nmiEdge) ∧ t.resetLow = x.reset

/-- The byte of the acknowledge cycle of an INT taken now: what the interrupting device drives, else the next free value, after
the free P/V of U9 where that is drawn (R452, log 6, log 17). -/
def State.ackData (s : State) : Byte := s.intData.getD s.clearIffRead.free

/-- The state after the acknowledge cycle and the push of PC, from which mode 2 reads its table (R448, R451). -/
def State.pushedForInt (s : State) : State := s.beginInt.acknowledge.push16 s.pc

/-- The two decimal digits of a number below 100, the tens in the high half (R300). -/
def bcdByte (x : Nat) : Byte := BitVec.ofNat 8 (16 * (x % 100 / 10) + x % 10)

/-- A step is safe when it gives a next state: neither a fault nor a refusal. -/
def SafeStep (s : State) : Prop := ∃ t, step s = .next t

end Sys2Proof.Machine
end

