-- ==== Sys2Proof/Certificates/Slice0/Obligations.lean ====
section
/-! DEFINITION. The statements for the provers, from the numbered rules of the spec. A step of `exec` starts from the state after
the fetch: PC past the instruction, its M1 cycles counted. -/

open Sys2Proof Sys2Proof.Machine

/-! Reset. -/

/-- R49: the state after RESET. The registers the rule leaves unspecified are not mentioned. -/
def Obligations.ResetStateValues : Prop :=
  State.reset.pc = 0 ∧ State.reset.i = 0 ∧ State.reset.r = 0 ∧ State.reset.iff1 = false ∧ State.reset.iff2 = false ∧
  State.reset.im = .im0 ∧ State.reset.halted = false ∧ State.reset.eiShadow = false ∧ State.reset.nmiPending = false

/-- A RESET during a run, from any state and ahead of every other event. That it is taken between steps, where the last sample
showed RESET low, is the model's choice (log 15, the spec's decision D22); the values are those of R49 and R480, and nothing is said
of the registers they leave without one. -/
def Obligations.ResetSignalStep : Prop :=
  ∀ s : State, s.resetLow = true → ∃ t, step s = .next t ∧
    t.pc = 0 ∧ t.i = 0 ∧ t.r = 0 ∧ t.iff1 = false ∧ t.iff2 = false ∧ t.im = .im0 ∧
    t.halted = false ∧ t.eiShadow = false ∧ t.nmiPending = false ∧ SameMem s t

/-! Encoding. -/

/-- R121 to R125: a few words written out from the opcode maps. -/
def Obligations.KnownWordsDecode : Prop :=
  decodeBytes [0x78#8] = .ok (.ldRR .a .b) 1 ∧
  decodeBytes [0x3E#8, 0x10#8] = .ok (.ldRN .a 0x10#8) 2 ∧
  decodeBytes [0xDD#8, 0x7E#8, 0x10#8] = .ok (.ldRAtIx .a 0x10#8) 3 ∧
  decodeBytes [0x21#8, 0x10#8, 0x80#8] = .ok (.ldDdNn .hl 0x8010#16) 3 ∧
  decodeBytes [0xED#8, 0xB0#8] = .ok .ldir 2 ∧
  decodeBytes [0xCB#8, 0x5F#8] = .ok (.bitR 3 .a) 2 ∧
  decodeBytes [0xDD#8, 0xCB#8, 0x10#8, 0xBE#8] = .ok (.resAtIx 7 0x10#8) 4 ∧
  decodeBytes [0xDF#8] = .ok (.rstP 0x18#8) 1

/-- R100: the decoder reads back every well-formed instruction from its encoding, whatever follows it. -/
def Obligations.DecodeReadsEncode : Prop :=
  ∀ (i : Instr) (rest : List Byte), i.wellFormed = true →
    decodeBytes (encode i ++ rest) = .ok i (encode i).length

/-- R121 to R125: whatever decodes is well-formed, and its encoding is the bytes it was read from. -/
def Obligations.EncodeRebuildsDecoded : Prop :=
  ∀ (bs : List Byte) (i : Instr) (len : Nat), decodeBytes bs = .ok i len →
    i.wellFormed = true ∧ len ≤ bs.length ∧ encode i = bs.take len

/-- R126, R127: which byte sequences select no instruction; the first byte alone never does. The refusal is the spec's decision D7
(log 14). -/
def Obligations.UndocumentedEncodings : Prop :=
  (∀ (op : Byte) (rest : List Byte), decodeBytes (op :: rest) = .undocumented → isPrefixByte op = true) ∧
  (∀ (op : Byte) (rest : List Byte),
    (decodeBytes (0xCB#8 :: op :: rest) = .undocumented ↔ 0x30 ≤ op.toNat ∧ op.toNat ≤ 0x37) ∧
    (decodeBytes (0xED#8 :: op :: rest) = .undocumented ↔ op.toNat ∉
      ([0x40, 0x41, 0x42, 0x43, 0x44, 0x45, 0x46, 0x47, 0x48, 0x49, 0x4A, 0x4B, 0x4D, 0x4F, 0x50, 0x51] ++
       [0x52, 0x53, 0x56, 0x57, 0x58, 0x59, 0x5A, 0x5B, 0x5E, 0x5F, 0x60, 0x61, 0x62, 0x63, 0x67, 0x68] ++
       [0x69, 0x6A, 0x6B, 0x6F, 0x72, 0x73, 0x78, 0x79, 0x7A, 0x7B, 0xA0, 0xA1, 0xA2, 0xA3, 0xA8, 0xA9] ++
       [0xAA, 0xAB, 0xB0, 0xB1, 0xB2, 0xB3, 0xB8, 0xB9, 0xBA, 0xBB]))) ∧
  (∀ (pre op : Byte) (rest : List Byte), pre = 0xDD#8 ∨ pre = 0xFD#8 → op ≠ 0xCB#8 →
    (decodeBytes (pre :: op :: rest) = .undocumented ↔ op.toNat ∉
      ([0x09, 0x19, 0x21, 0x22, 0x23, 0x29, 0x2A, 0x2B, 0x34, 0x35, 0x36, 0x39, 0x46, 0x4E, 0x56, 0x5E] ++
       [0x66, 0x6E, 0x70, 0x71, 0x72, 0x73, 0x74, 0x75, 0x77, 0x7E, 0x86, 0x8E, 0x96, 0x9E, 0xA6, 0xAE] ++
       [0xB6, 0xBE, 0xE1, 0xE3, 0xE5, 0xE9, 0xF9]))) ∧
  (∀ (pre d op : Byte) (rest : List Byte), pre = 0xDD#8 ∨ pre = 0xFD#8 →
    (decodeBytes (pre :: 0xCB#8 :: d :: op :: rest) = .undocumented ↔
      op.toNat % 8 ≠ 6 ∨ (0x30 ≤ op.toNat ∧ op.toNat ≤ 0x37)))

/-! The step. -/

/-- R101, R128, R437: when the bytes at PC are those of a well-formed instruction, the step runs it, counts its T states and
samples the inputs. The T-state counter is the model's own (log 16). -/
def Obligations.StepRunsInstruction : Prop :=
  ∀ (s t : State) (i : Instr), i.wellFormed = true → Running s → Quiet s → HoldsAtPc s i →
    exec i (s.fetched i) = .next t →
    step s = .next (t.finishInstr (tStates i (s.fetched i))) ∧ Sampled t (t.finishInstr (tStates i (s.fetched i)))

/-- R126: when the bytes at PC select no instruction, the step is refused by that name (D7, log 14). -/
def Obligations.UndocumentedStepRefused : Prop :=
  ∀ (s : State) (bs : List Byte), Running s → Quiet s → bs.length ≤ 4 → decodeBytes bs = .undocumented →
    (∀ k : Nat, (h : k < bs.length) → s.plat.backed (s.pc + BitVec.ofNat 16 k) = true ∧
      s.peek (s.pc + BitVec.ofNat 16 k) = bs[k]) →
    step s = .refused .undocumentedOpcode

/-! Memory and addresses. -/

/-- R72, R85, R86: what a read returns at an address of each kind, and what a write does there. That an unmapped read is the next
free value is the model's form of `any8()` (log 4, log 8); that devices are known by a history of events is log 9. -/
def Obligations.AccessByMemoryKind : Prop :=
  ∀ (s : State) (a : Word) (v : Byte), Quiet s →
    (s.plat.kindAt a = .ram ∨ s.plat.kindAt a = .rom → s.read a = s.peek a ∧ s.afterRead a = s) ∧
    (s.plat.kindAt a = .unmapped → s.read a = Config.anyByte s.plat.draws ∧ SameMem s (s.afterRead a)) ∧
    (s.plat.kindAt a = .device → SameMem s (s.afterRead a) ∧
      (s.afterRead a).plat.busLog = s.plat.busLog ++ [.memRead a (s.read a)]) ∧
    (s.plat.kindAt a = .ram → (s.write a v).peek a = v ∧ (s.write a v).plat.busLog = s.plat.busLog) ∧
    (s.plat.kindAt a ≠ .ram → (s.write a v).peek a = s.peek a ∧
      (s.write a v).plat.busLog = s.plat.busLog ++ [.memWrite a v]) ∧
    (∀ x : Word, x ≠ a → (s.write a v).peek x = s.peek x)

/-- R116, R115: the indexed address and the relative target are the signed sums modulo 2^16. -/
def Obligations.DisplacementArithmetic : Prop :=
  ∀ (s : State) (d : Byte),
    ((s.ixd d).toNat : Int) = ((s.ix.toNat : Int) + d.toInt) % 65536 ∧
    ((s.iyd d).toNat : Int) = ((s.iy.toNat : Int) + d.toInt) % 65536 ∧
    ((s.relative d).toNat : Int) = ((s.pc.toNat : Int) + d.toInt) % 65536

/-! 8-bit loads. -/

/-- R141, R142. -/
def Obligations.LoadRegister : Prop :=
  ∀ (r r' : Reg8) (n : Byte) (s : State),
    (∃ t, exec (.ldRR r r') s = .next t ∧ t.reg r = s.reg r' ∧ Frame s t [regLoc r] ∧ SameMem s t) ∧
    (∃ t, exec (.ldRN r n) s = .next t ∧ t.reg r = n ∧ Frame s t [regLoc r] ∧ SameMem s t)

/-- R143 to R145, R152 to R154: a byte read at the operand's address goes to the register. -/
def Obligations.LoadFromMemory : Prop :=
  ∀ (r : Reg8) (d : Byte) (nn : Word) (s : State), Quiet s →
    (∀ x ∈ [(Instr.ldRAtHl r, s.hl), (.ldRAtIx r d, s.ixd d), (.ldRAtIy r d, s.iyd d)],
      ∃ t, exec x.1 s = .next t ∧ t.reg r = s.read x.2 ∧ Frame s t [regLoc r] ∧ SameMem s t) ∧
    (∀ x ∈ [(Instr.ldAAtBc, s.bc), (.ldAAtDe, s.de), (.ldAAtNn nn, nn)],
      ∃ t, exec x.1 s = .next t ∧ t.a = s.read x.2 ∧ Frame s t [.a] ∧ SameMem s t)

/-- R146 to R151, R155 to R157: one byte is stored at the operand's address, no register and no flag changes. -/
def Obligations.StoreToMemory : Prop :=
  ∀ (r : Reg8) (d n : Byte) (nn : Word) (s : State), Quiet s →
    ∀ x ∈ [(Instr.ldAtHlR r, s.hl, s.reg r), (.ldAtIxR d r, s.ixd d, s.reg r), (.ldAtIyR d r, s.iyd d, s.reg r),
        (.ldAtHlN n, s.hl, n), (.ldAtIxN d n, s.ixd d, n), (.ldAtIyN d n, s.iyd d, n),
        (.ldAtBcA, s.bc, s.a), (.ldAtDeA, s.de, s.a), (.ldAtNnA nn, nn, s.a)],
      ∃ t, exec x.1 s = .next t ∧ Stored s t x.2.1 x.2.2 ∧ Frame s t []

/-- R158 to R161: the loads between A and I or R. -/
def Obligations.LoadInterruptRefresh : Prop :=
  ∀ s : State,
    (∀ x ∈ [(Instr.ldAIreg, s.i), (.ldARreg, s.r)],
      ∃ t, exec x.1 s = .next t ∧ t.a = x.2 ∧
        t.f.s = x.2.msb ∧ t.f.z = (x.2 == 0#8) ∧ t.f.h = false ∧ t.f.pv = s.iff2 ∧ t.f.n = false ∧
        Frame s t (.a :: flagsButC) ∧ SameMem s t) ∧
    (∃ t, exec .ldIregA s = .next t ∧ t.i = s.a ∧ Frame s t [.i] ∧ SameMem s t) ∧
    (∃ t, exec .ldRregA s = .next t ∧ t.r = s.a ∧ Frame s t [.r] ∧ SameMem s t)

/-! 16-bit loads and the stack. -/

/-- R171 to R173, R182 to R184. -/
def Obligations.LoadPairImmediate : Prop :=
  ∀ (dd : Pair) (nn : Word) (s : State),
    (∃ t, exec (.ldDdNn dd nn) s = .next t ∧ t.pair dd = nn ∧ Frame s t (pairLocs dd) ∧ SameMem s t) ∧
    (∃ t, exec (.ldIxNn nn) s = .next t ∧ t.ix = nn ∧ Frame s t [.ix] ∧ SameMem s t) ∧
    (∃ t, exec (.ldIyNn nn) s = .next t ∧ t.iy = nn ∧ Frame s t [.iy] ∧ SameMem s t) ∧
    (∀ x ∈ [(Instr.ldSpHl, s.hl), (.ldSpIx, s.ix), (.ldSpIy, s.iy)],
      ∃ t, exec x.1 s = .next t ∧ t.sp = x.2 ∧ Frame s t [.sp] ∧ SameMem s t)

/-- R174 to R177, R78: 16 bits read low byte first; from backed memory they are the two bytes at nn and nn + 1. -/
def Obligations.LoadPairFromMemory : Prop :=
  ∀ (dd : Pair) (nn : Word) (s : State), Quiet s →
    (∃ t, exec (.ldHlAtNn nn) s = .next t ∧ t.hl = s.read16 nn ∧ Frame s t [.h, .l] ∧ SameMem s t) ∧
    (∃ t, exec (.ldDdAtNn dd nn) s = .next t ∧ t.pair dd = s.read16 nn ∧ Frame s t (pairLocs dd) ∧ SameMem s t) ∧
    (∃ t, exec (.ldIxAtNn nn) s = .next t ∧ t.ix = s.read16 nn ∧ Frame s t [.ix] ∧ SameMem s t) ∧
    (∃ t, exec (.ldIyAtNn nn) s = .next t ∧ t.iy = s.read16 nn ∧ Frame s t [.iy] ∧ SameMem s t) ∧
    (s.plat.backed nn = true → s.plat.backed (nn + 1) = true →
      (s.read16 nn).toNat = (s.peek nn).toNat + 256 * (s.peek (nn + 1)).toNat)

/-- R178 to R181: 16 bits stored, low byte at nn, high byte at nn + 1. -/
def Obligations.StorePairToMemory : Prop :=
  ∀ (dd : Pair) (nn : Word) (s : State), Quiet s →
    ∀ x ∈ [(Instr.ldAtNnHl nn, s.hl), (.ldAtNnDd nn dd, s.pair dd), (.ldAtNnIx nn, s.ix), (.ldAtNnIy nn, s.iy)],
      ∃ t, exec x.1 s = .next t ∧ Stored16 s t nn x.2 ∧ Frame s t []

/-- R185 to R187, R80: SP goes down by 2 and the word stands at the new SP, low byte first. -/
def Obligations.PushWord : Prop :=
  ∀ (qq : StackPair) (s : State), Quiet s →
    ∀ x ∈ [(Instr.pushQq qq, s.stackPair qq), (.pushIx, s.ix), (.pushIy, s.iy)],
      ∃ t, exec x.1 s = .next t ∧ t.sp = s.sp - 2 ∧ Stored16 s t (s.sp - 2) x.2 ∧ Frame s t [.sp]

/-- R188 to R190, R80: the word at SP is popped, low byte first, and SP goes up by 2. -/
def Obligations.PopWord : Prop :=
  ∀ (qq : StackPair) (s : State), Quiet s →
    (∃ t, exec (.popQq qq) s = .next t ∧ t.stackPair qq = s.pop16 ∧ t.sp = s.sp + 2 ∧
      Frame s t (.sp :: stackPairLocs qq) ∧ SameMem s t) ∧
    (∃ t, exec .popIx s = .next t ∧ t.ix = s.pop16 ∧ t.sp = s.sp + 2 ∧ Frame s t [.sp, .ix] ∧ SameMem s t) ∧
    (∃ t, exec .popIy s = .next t ∧ t.iy = s.pop16 ∧ t.sp = s.sp + 2 ∧ Frame s t [.sp, .iy] ∧ SameMem s t) ∧
    (s.plat.backed s.sp = true → s.plat.backed (s.sp + 1) = true →
      s.pop16.toNat = (s.peek s.sp).toNat + 256 * (s.peek (s.sp + 1)).toNat)

/-- R80, R185, R188, R411, R413: on a RAM stack, what is pushed is popped again, into any pair and F with all its eight bits, and a
call followed by a return comes back to the next instruction; SP is as before. -/
def Obligations.StackRoundTrip : Prop :=
  ∀ (qq qq' : StackPair) (nn : Word) (s : State), Quiet s →
    s.plat.kindAt (s.sp - 1) = .ram → s.plat.kindAt (s.sp - 2) = .ram →
    (∃ t u, exec (.pushQq qq) s = .next t ∧ exec (.popQq qq') t = .next u ∧
      u.stackPair qq' = s.stackPair qq ∧ u.sp = s.sp ∧ Frame s u (stackPairLocs qq')) ∧
    (∃ t u, exec (.callNn nn) s = .next t ∧ exec .ret t = .next u ∧ t.pc = nn ∧ Frame s u [])

/-! Exchange, block transfer, block search. -/

/-- R200 to R202. -/
def Obligations.ExchangeRegisters : Prop :=
  ∀ s : State,
    (∃ t, exec .exDeHl s = .next t ∧ t.de = s.hl ∧ t.hl = s.de ∧ Frame s t [.d, .e, .h, .l] ∧ SameMem s t) ∧
    (∃ t, exec .exAfAf s = .next t ∧ t.a = s.altA ∧ t.f = s.altF ∧ t.altA = s.a ∧ t.altF = s.f ∧
      Frame s t ([.a, .altA, .altF] ++ allFlags) ∧ SameMem s t) ∧
    (∃ t, exec .exx s = .next t ∧
      t.bc = wordOf s.altB s.altC ∧ t.de = wordOf s.altD s.altE ∧ t.hl = wordOf s.altH s.altL ∧
      wordOf t.altB t.altC = s.bc ∧ wordOf t.altD t.altE = s.de ∧ wordOf t.altH t.altL = s.hl ∧
      Frame s t [.b, .c, .d, .e, .h, .l, .altB, .altC, .altD, .altE, .altH, .altL] ∧ SameMem s t)

/-- R203 to R205: the register and the word on top of the stack change places. -/
def Obligations.ExchangeStackTop : Prop :=
  ∀ s : State, Quiet s →
    (∃ t, exec .exAtSpHl s = .next t ∧ t.hl = s.read16 s.sp ∧ Stored16 s t s.sp s.hl ∧ Frame s t [.h, .l]) ∧
    (∃ t, exec .exAtSpIx s = .next t ∧ t.ix = s.read16 s.sp ∧ Stored16 s t s.sp s.ix ∧ Frame s t [.ix]) ∧
    (∃ t, exec .exAtSpIy s = .next t ∧ t.iy = s.read16 s.sp ∧ Stored16 s t s.sp s.iy ∧ Frame s t [.iy])

/-- R206 to R209, R214, R215: one iteration of a block transfer; the repeating forms go back to their own first byte while BC is
not 0 after the decrement. -/
def Obligations.BlockTransfer : Prop :=
  ∀ s : State, Quiet s →
    ∀ x ∈ [(Instr.ldi, 1#16, false), (.ldd, 0xFFFF#16, false), (.ldir, 1#16, true), (.lddr, 0xFFFF#16, true)],
      ∃ t, exec x.1 s = .next t ∧ Stored s t s.de (s.read s.hl) ∧
        t.de = s.de + x.2.1 ∧ t.hl = s.hl + x.2.1 ∧ t.bc = s.bc - 1 ∧
        t.f.h = false ∧ t.f.n = false ∧ t.f.pv = (s.bc - 1 != 0#16) ∧
        t.pc = (if x.2.2 = true ∧ s.bc - 1 ≠ 0#16 then s.pc - 2 else s.pc) ∧
        Frame s t [.b, .c, .d, .e, .h, .l, .pc, .flagH, .flagPV, .flagN, .flagX5, .flagX3]

/-- R210 to R213, R214, R215: one iteration of a block search; the repeating forms stop at a match or when BC is 0. -/
def Obligations.BlockSearch : Prop :=
  ∀ s : State, Quiet s →
    ∀ x ∈ [(Instr.cpi, 1#16, false), (.cpd, 0xFFFF#16, false), (.cpir, 1#16, true), (.cpdr, 0xFFFF#16, true)],
      ∃ t, exec x.1 s = .next t ∧ t.hl = s.hl + x.2.1 ∧ t.bc = s.bc - 1 ∧
        t.f.s = (s.a - s.read s.hl).msb ∧ t.f.z = (s.a == s.read s.hl) ∧
        t.f.h = decide (s.a.toNat % 16 < (s.read s.hl).toNat % 16) ∧
        t.f.pv = (s.bc - 1 != 0#16) ∧ t.f.n = true ∧
        t.pc = (if x.2.2 = true ∧ s.bc - 1 ≠ 0#16 ∧ s.a ≠ s.read s.hl then s.pc - 2 else s.pc) ∧
        Frame s t ([.b, .c, .h, .l, .pc] ++ flagsButC) ∧ SameMem s t

/-! 8-bit arithmetic and logic. -/

/-- R220, R221: the flags of an addition and of a subtraction by exact arithmetic; P/V is set when the signed result does not fit a
byte; after a subtraction C and H are borrows. -/
def Obligations.AddSubtractFlagsRule : Prop :=
  ∀ (a b : Byte) (cin : Bool),
    (add8 a b cin).toNat = (a.toNat + b.toNat + cin.toNat) % 256 ∧
    (add8Flags a b cin).s = (add8 a b cin).msb ∧
    ((add8Flags a b cin).z = true ↔ add8 a b cin = 0#8) ∧
    ((add8Flags a b cin).h = true ↔ a.toNat % 16 + b.toNat % 16 + cin.toNat > 15) ∧
    ((add8Flags a b cin).pv = true ↔
      a.toInt + b.toInt + (cin.toNat : Int) < -128 ∨ a.toInt + b.toInt + (cin.toNat : Int) > 127) ∧
    (add8Flags a b cin).n = false ∧
    ((add8Flags a b cin).c = true ↔ a.toNat + b.toNat + cin.toNat > 255) ∧
    ((sub8 a b cin).toNat : Int) = ((a.toNat : Int) - b.toNat - cin.toNat) % 256 ∧
    (sub8Flags a b cin).s = (sub8 a b cin).msb ∧
    ((sub8Flags a b cin).z = true ↔ sub8 a b cin = 0#8) ∧
    ((sub8Flags a b cin).h = true ↔ a.toNat % 16 < b.toNat % 16 + cin.toNat) ∧
    ((sub8Flags a b cin).pv = true ↔
      a.toInt - b.toInt - (cin.toNat : Int) < -128 ∨ a.toInt - b.toInt - (cin.toNat : Int) > 127) ∧
    (sub8Flags a b cin).n = true ∧
    ((sub8Flags a b cin).c = true ↔ a.toNat < b.toNat + cin.toNat)

/-- R225 to R234: ADD and ADC in every operand form. -/
def Obligations.AddToAccumulator : Prop :=
  ∀ (r : Reg8) (n d : Byte) (s : State), Quiet s →
    (∀ x ∈ [(Instr.addAR r, s.reg r), (.addAN n, n), (.addAAtHl, s.read s.hl), (.addAAtIx d, s.read (s.ixd d)),
        (.addAAtIy d, s.read (s.iyd d))],
      ∃ t, exec x.1 s = .next t ∧ t.a = add8 s.a x.2 false ∧ FlagsAre t.f (add8Flags s.a x.2 false) ∧
        Frame s t (.a :: allFlags) ∧ SameMem s t) ∧
    (∀ x ∈ [(Instr.adcAR r, s.reg r), (.adcAN n, n), (.adcAAtHl, s.read s.hl), (.adcAAtIx d, s.read (s.ixd d)),
        (.adcAAtIy d, s.read (s.iyd d))],
      ∃ t, exec x.1 s = .next t ∧ t.a = add8 s.a x.2 s.f.c ∧ FlagsAre t.f (add8Flags s.a x.2 s.f.c) ∧
        Frame s t (.a :: allFlags) ∧ SameMem s t)

/-- R235 to R244, R260 to R264: SUB, SBC and CP in every operand form; CP writes the flags of SUB and keeps A. -/
def Obligations.SubtractAndCompare : Prop :=
  ∀ (r : Reg8) (n d : Byte) (s : State), Quiet s →
    (∀ x ∈ [(Instr.subR r, s.reg r), (.subN n, n), (.subAtHl, s.read s.hl), (.subAtIx d, s.read (s.ixd d)),
        (.subAtIy d, s.read (s.iyd d))],
      ∃ t, exec x.1 s = .next t ∧ t.a = sub8 s.a x.2 false ∧ FlagsAre t.f (sub8Flags s.a x.2 false) ∧
        Frame s t (.a :: allFlags) ∧ SameMem s t) ∧
    (∀ x ∈ [(Instr.sbcAR r, s.reg r), (.sbcAN n, n), (.sbcAAtHl, s.read s.hl), (.sbcAAtIx d, s.read (s.ixd d)),
        (.sbcAAtIy d, s.read (s.iyd d))],
      ∃ t, exec x.1 s = .next t ∧ t.a = sub8 s.a x.2 s.f.c ∧ FlagsAre t.f (sub8Flags s.a x.2 s.f.c) ∧
        Frame s t (.a :: allFlags) ∧ SameMem s t) ∧
    (∀ x ∈ [(Instr.cpR r, s.reg r), (.cpN n, n), (.cpAtHl, s.read s.hl), (.cpAtIx d, s.read (s.ixd d)),
        (.cpAtIy d, s.read (s.iyd d))],
      ∃ t, exec x.1 s = .next t ∧ FlagsAre t.f (sub8Flags s.a x.2 false) ∧
        (t.f.z = true ↔ s.a = x.2) ∧ (t.f.c = true ↔ s.a.toNat < x.2.toNat) ∧
        Frame s t allFlags ∧ SameMem s t)

/-- R245 to R259, R222: AND, XOR and OR, bit by bit; P/V is even parity, C and N are cleared, H is set by AND alone. -/
def Obligations.LogicAccumulator : Prop :=
  ∀ (r : Reg8) (n d : Byte) (s : State), Quiet s →
    ∀ x ∈ [(Instr.andR r, s.reg r, and, true), (.andN n, n, and, true), (.andAtHl, s.read s.hl, and, true),
        (.andAtIx d, s.read (s.ixd d), and, true), (.andAtIy d, s.read (s.iyd d), and, true),
        (.xorR r, s.reg r, xor, false), (.xorN n, n, xor, false), (.xorAtHl, s.read s.hl, xor, false),
        (.xorAtIx d, s.read (s.ixd d), xor, false), (.xorAtIy d, s.read (s.iyd d), xor, false),
        (.orR r, s.reg r, or, false), (.orN n, n, or, false), (.orAtHl, s.read s.hl, or, false),
        (.orAtIx d, s.read (s.ixd d), or, false), (.orAtIy d, s.read (s.iyd d), or, false)],
      ∃ t, exec x.1 s = .next t ∧
        (∀ k : Nat, k < 8 → t.a.getLsbD k = x.2.2.1 (s.a.getLsbD k) (x.2.1.getLsbD k)) ∧
        t.f.s = t.a.msb ∧ t.f.z = (t.a == 0#8) ∧ t.f.h = x.2.2.2 ∧ t.f.n = false ∧ t.f.c = false ∧
        (t.f.pv = true ↔ ((List.range 8).filter (fun k => t.a.getLsbD k)).length % 2 = 0) ∧
        Frame s t (.a :: allFlags) ∧ SameMem s t

/-- R265 to R272, R223: INC and DEC of a register, and of a memory byte read and written at the same address; C is kept. -/
def Obligations.IncDecByte : Prop :=
  ∀ (r : Reg8) (d : Byte) (s : State),
    (∃ t, exec (.incR r) s = .next t ∧ t.reg r = s.reg r + 1 ∧ t.f.s = (s.reg r + 1#8).msb ∧
      t.f.z = (s.reg r == 0xFF#8) ∧ t.f.h = decide ((s.reg r).toNat % 16 = 15) ∧ t.f.pv = (s.reg r == 0x7F#8) ∧
      t.f.n = false ∧ Frame s t (regLoc r :: flagsButC) ∧ SameMem s t) ∧
    (∃ t, exec (.decR r) s = .next t ∧ t.reg r = s.reg r - 1 ∧ t.f.s = (s.reg r - 1#8).msb ∧
      t.f.z = (s.reg r == 0x01#8) ∧ t.f.h = decide ((s.reg r).toNat % 16 = 0) ∧ t.f.pv = (s.reg r == 0x80#8) ∧
      t.f.n = true ∧ Frame s t (regLoc r :: flagsButC) ∧ SameMem s t) ∧
    (Quiet s →
    (∀ x ∈ [(Instr.incAtHl, s.hl), (.incAtIx d, s.ixd d), (.incAtIy d, s.iyd d)],
      ∃ t, exec x.1 s = .next t ∧ Stored s t x.2 (s.read x.2 + 1) ∧ t.f.s = (s.read x.2 + 1#8).msb ∧
        t.f.z = (s.read x.2 == 0xFF#8) ∧ t.f.h = decide ((s.read x.2).toNat % 16 = 15) ∧
        t.f.pv = (s.read x.2 == 0x7F#8) ∧ t.f.n = false ∧ Frame s t flagsButC) ∧
    (∀ x ∈ [(Instr.decAtHl, s.hl), (.decAtIx d, s.ixd d), (.decAtIy d, s.iyd d)],
      ∃ t, exec x.1 s = .next t ∧ Stored s t x.2 (s.read x.2 - 1) ∧ t.f.s = (s.read x.2 - 1#8).msb ∧
        t.f.z = (s.read x.2 == 0x01#8) ∧ t.f.h = decide ((s.read x.2).toNat % 16 = 0) ∧
        t.f.pv = (s.read x.2 == 0x80#8) ∧ t.f.n = true ∧ Frame s t flagsButC))

/-! 16-bit arithmetic. -/

/-- R283, R286, R287, R280: the 16-bit additions that write H, N and C alone. -/
def Obligations.AddWord : Prop :=
  ∀ (ss : Pair) (pp : IdxPair) (s : State),
    (∃ t, exec (.addHlSs ss) s = .next t ∧ t.hl.toNat = (s.hl.toNat + (s.pair ss).toNat) % 65536 ∧
      t.f.h = decide (s.hl.toNat % 4096 + (s.pair ss).toNat % 4096 > 4095) ∧ t.f.n = false ∧
      t.f.c = decide (s.hl.toNat + (s.pair ss).toNat > 65535) ∧ Frame s t ([.h, .l] ++ partialFlags) ∧ SameMem s t) ∧
    (∃ t, exec (.addIxPp pp) s = .next t ∧ t.ix.toNat = (s.ix.toNat + (s.ixPair pp).toNat) % 65536 ∧
      t.f.h = decide (s.ix.toNat % 4096 + (s.ixPair pp).toNat % 4096 > 4095) ∧ t.f.n = false ∧
      t.f.c = decide (s.ix.toNat + (s.ixPair pp).toNat > 65535) ∧ Frame s t (.ix :: partialFlags) ∧ SameMem s t) ∧
    (∃ t, exec (.addIyRr pp) s = .next t ∧ t.iy.toNat = (s.iy.toNat + (s.iyPair pp).toNat) % 65536 ∧
      t.f.h = decide (s.iy.toNat % 4096 + (s.iyPair pp).toNat % 4096 > 4095) ∧ t.f.n = false ∧
      t.f.c = decide (s.iy.toNat + (s.iyPair pp).toNat > 65535) ∧ Frame s t (.iy :: partialFlags) ∧ SameMem s t)

/-- R284, R285, R281, R282: ADC HL and SBC HL write all six flags; P/V is set when the signed result does not fit 16 bits. -/
def Obligations.AddSubtractWordCarry : Prop :=
  ∀ (ss : Pair) (s : State),
    (∃ t, exec (.adcHlSs ss) s = .next t ∧
      t.hl.toNat = (s.hl.toNat + (s.pair ss).toNat + s.f.c.toNat) % 65536 ∧
      t.f.s = t.hl.msb ∧ t.f.z = (t.hl == 0#16) ∧
      t.f.h = decide (s.hl.toNat % 4096 + (s.pair ss).toNat % 4096 + s.f.c.toNat > 4095) ∧
      (t.f.pv = true ↔ s.hl.toInt + (s.pair ss).toInt + (s.f.c.toNat : Int) < -32768 ∨
        s.hl.toInt + (s.pair ss).toInt + (s.f.c.toNat : Int) > 32767) ∧
      t.f.n = false ∧ t.f.c = decide (s.hl.toNat + (s.pair ss).toNat + s.f.c.toNat > 65535) ∧
      Frame s t ([.h, .l] ++ allFlags) ∧ SameMem s t) ∧
    (∃ t, exec (.sbcHlSs ss) s = .next t ∧
      (t.hl.toNat : Int) = ((s.hl.toNat : Int) - (s.pair ss).toNat - s.f.c.toNat) % 65536 ∧
      t.f.s = t.hl.msb ∧ t.f.z = (t.hl == 0#16) ∧
      t.f.h = decide (s.hl.toNat % 4096 < (s.pair ss).toNat % 4096 + s.f.c.toNat) ∧
      (t.f.pv = true ↔ s.hl.toInt - (s.pair ss).toInt - (s.f.c.toNat : Int) < -32768 ∨
        s.hl.toInt - (s.pair ss).toInt - (s.f.c.toNat : Int) > 32767) ∧
      t.f.n = true ∧ t.f.c = decide (s.hl.toNat < (s.pair ss).toNat + s.f.c.toNat) ∧
      Frame s t ([.h, .l] ++ allFlags) ∧ SameMem s t)

/-- R288 to R293: the 16-bit increments and decrements write no flag. -/
def Obligations.IncDecWord : Prop :=
  ∀ (ss : Pair) (s : State),
    (∃ t, exec (.incSs ss) s = .next t ∧ t.pair ss = s.pair ss + 1 ∧ Frame s t (pairLocs ss) ∧ SameMem s t) ∧
    (∃ t, exec (.decSs ss) s = .next t ∧ t.pair ss = s.pair ss - 1 ∧ Frame s t (pairLocs ss) ∧ SameMem s t) ∧
    (∃ t, exec .incIx s = .next t ∧ t.ix = s.ix + 1 ∧ Frame s t [.ix] ∧ SameMem s t) ∧
    (∃ t, exec .incIy s = .next t ∧ t.iy = s.iy + 1 ∧ Frame s t [.iy] ∧ SameMem s t) ∧
    (∃ t, exec .decIx s = .next t ∧ t.ix = s.ix - 1 ∧ Frame s t [.ix] ∧ SameMem s t) ∧
    (∃ t, exec .decIy s = .next t ∧ t.iy = s.iy - 1 ∧ Frame s t [.iy] ∧ SameMem s t)

/-! General-purpose arithmetic and control. -/

/-- R300: DAA by exact arithmetic on every input. -/
def Obligations.DecimalAdjust : Prop :=
  ∀ s : State, ∃ t, exec .daa s = .next t ∧
    t.a.toNat = (if s.f.n then
        s.a.toNat + 256 - ((if s.f.h || decide (s.a.toNat % 16 > 9) then 6 else 0) +
          (if s.f.c || decide (s.a.toNat > 153) then 96 else 0))
      else
        s.a.toNat + ((if s.f.h || decide (s.a.toNat % 16 > 9) then 6 else 0) +
          (if s.f.c || decide (s.a.toNat > 153) then 96 else 0))) % 256 ∧
    t.f.s = t.a.msb ∧ t.f.z = (t.a == 0#8) ∧
    t.f.h = (if s.f.n then s.f.h && decide (s.a.toNat % 16 < 6) else decide (s.a.toNat % 16 > 9)) ∧
    t.f.pv = parity t.a ∧ t.f.n = s.f.n ∧ t.f.c = (s.f.c || decide (s.a.toNat > 153)) ∧
    Frame s t (.a :: allFlags) ∧ SameMem s t

/-- R300: after ADD or SUB of two-digit BCD numbers, in every operand form, DAA leaves the BCD sum or difference modulo 100, with
the decimal carry or borrow in C. -/
def Obligations.DecimalAdjustIsBcd : Prop :=
  ∀ (x y : Nat) (r : Reg8) (n d : Byte) (s : State), x < 100 → y < 100 → s.a = bcdByte x →
    (∀ p ∈ [(Instr.addAR r, s.reg r), (.addAN n, n), (.addAAtHl, s.read s.hl), (.addAAtIx d, s.read (s.ixd d)),
        (.addAAtIy d, s.read (s.iyd d))],
      p.2 = bcdByte y → ∃ t u, exec p.1 s = .next t ∧ exec .daa t = .next u ∧
        u.a = bcdByte (x + y) ∧ u.f.c = decide (x + y ≥ 100)) ∧
    (∀ p ∈ [(Instr.subR r, s.reg r), (.subN n, n), (.subAtHl, s.read s.hl), (.subAtIx d, s.read (s.ixd d)),
        (.subAtIy d, s.read (s.iyd d))],
      p.2 = bcdByte y → ∃ t u, exec p.1 s = .next t ∧ exec .daa t = .next u ∧
        u.a = bcdByte (x + 100 - y) ∧ u.f.c = decide (x < y))

/-- R301 to R304: CPL, NEG, CCF, SCF. -/
def Obligations.AccumulatorFlagOps : Prop :=
  ∀ s : State,
    (∃ t, exec .cpl s = .next t ∧ (∀ k : Nat, k < 8 → t.a.getLsbD k = !s.a.getLsbD k) ∧ t.f.h = true ∧ t.f.n = true ∧
      Frame s t ([.a, .flagH, .flagN] ++ xBits) ∧ SameMem s t) ∧
    (∃ t, exec .neg s = .next t ∧ t.a.toNat = (256 - s.a.toNat) % 256 ∧ FlagsAre t.f (sub8Flags 0#8 s.a false) ∧
      (t.f.c = true ↔ s.a ≠ 0#8) ∧ (t.f.pv = true ↔ s.a = 0x80#8) ∧ Frame s t (.a :: allFlags) ∧ SameMem s t) ∧
    (∃ t, exec .ccf s = .next t ∧ t.f.c = !s.f.c ∧ t.f.h = s.f.c ∧ t.f.n = false ∧
      Frame s t partialFlags ∧ SameMem s t) ∧
    (∃ t, exec .scf s = .next t ∧ t.f.c = true ∧ t.f.h = false ∧ t.f.n = false ∧
      Frame s t partialFlags ∧ SameMem s t)

/-- R305 to R311: NOP, HALT, DI, EI, IM. -/
def Obligations.CpuControl : Prop :=
  ∀ s : State,
    exec .nop s = .next s ∧
    (∃ t, exec .halt s = .next t ∧ t.halted = true ∧ Frame s t [.halted] ∧ SameMem s t) ∧
    (∃ t, exec .di s = .next t ∧ t.iff1 = false ∧ t.iff2 = false ∧ Frame s t [.iff1, .iff2] ∧ SameMem s t) ∧
    (∃ t, exec .ei s = .next t ∧ t.iff1 = true ∧ t.iff2 = true ∧ t.eiShadow = true ∧
      Frame s t [.iff1, .iff2, .eiShadow] ∧ SameMem s t) ∧
    (∀ x ∈ [(Instr.im0, IntMode.im0), (.im1, .im1), (.im2, .im2)],
      ∃ t, exec x.1 s = .next t ∧ t.im = x.2 ∧ Frame s t [.im] ∧ SameMem s t)

/-! Rotates, shifts, digits, bits. -/

/-- R320: the seven rotate and shift operations as numbers. -/
def Obligations.RotateResultRule : Prop :=
  ∀ (v : Byte) (c : Bool),
    (rotResult .rlc c v).toNat = (2 * v.toNat) % 256 + v.toNat / 128 ∧
    (rotResult .rrc c v).toNat = v.toNat / 2 + 128 * (v.toNat % 2) ∧
    (rotResult .rl c v).toNat = (2 * v.toNat) % 256 + c.toNat ∧
    (rotResult .rr c v).toNat = v.toNat / 2 + 128 * c.toNat ∧
    (rotResult .sla c v).toNat = (2 * v.toNat) % 256 ∧
    (rotResult .sra c v).toNat = v.toNat / 2 + 128 * (v.toNat / 128) ∧
    (rotResult .srl c v).toNat = v.toNat / 2 ∧
    (∀ k ∈ [RotKind.rlc, .rl, .sla], rotCarry k v = decide (128 ≤ v.toNat)) ∧
    (∀ k ∈ [RotKind.rrc, .rr, .sra, .srl], rotCarry k v = decide (v.toNat % 2 = 1))

/-- R321 to R324: the accumulator rotates write H, N and C alone. -/
def Obligations.RotateAccumulator : Prop :=
  ∀ s : State, ∀ x ∈ [(Instr.rlca, RotKind.rlc), (.rla, .rl), (.rrca, .rrc), (.rra, .rr)],
    ∃ t, exec x.1 s = .next t ∧ t.a = rotResult x.2 s.f.c s.a ∧ t.f.c = rotCarry x.2 s.a ∧ t.f.h = false ∧
      t.f.n = false ∧ Frame s t (.a :: partialFlags) ∧ SameMem s t

/-- R325 to R352, R320: the rotates and shifts of a register and of a memory byte, with all six flags. -/
def Obligations.RotateShift : Prop :=
  ∀ (r : Reg8) (d : Byte) (s : State),
    (∀ x ∈ [(Instr.rlcR r, RotKind.rlc), (.rlR r, .rl), (.rrcR r, .rrc), (.rrR r, .rr), (.slaR r, .sla), (.sraR r, .sra),
        (.srlR r, .srl)],
      ∃ t, exec x.1 s = .next t ∧ t.reg r = rotResult x.2 s.f.c (s.reg r) ∧ t.f.c = rotCarry x.2 (s.reg r) ∧
        t.f.s = (t.reg r).msb ∧ t.f.z = (t.reg r == 0#8) ∧ t.f.pv = parity (t.reg r) ∧ t.f.h = false ∧ t.f.n = false ∧
        Frame s t (regLoc r :: allFlags) ∧ SameMem s t) ∧
    (Quiet s → ∀ x ∈ [(Instr.rlcAtHl, RotKind.rlc, s.hl), (.rlcAtIx d, .rlc, s.ixd d), (.rlcAtIy d, .rlc, s.iyd d),
        (.rlAtHl, .rl, s.hl), (.rlAtIx d, .rl, s.ixd d), (.rlAtIy d, .rl, s.iyd d),
        (.rrcAtHl, .rrc, s.hl), (.rrcAtIx d, .rrc, s.ixd d), (.rrcAtIy d, .rrc, s.iyd d),
        (.rrAtHl, .rr, s.hl), (.rrAtIx d, .rr, s.ixd d), (.rrAtIy d, .rr, s.iyd d),
        (.slaAtHl, .sla, s.hl), (.slaAtIx d, .sla, s.ixd d), (.slaAtIy d, .sla, s.iyd d),
        (.sraAtHl, .sra, s.hl), (.sraAtIx d, .sra, s.ixd d), (.sraAtIy d, .sra, s.iyd d),
        (.srlAtHl, .srl, s.hl), (.srlAtIx d, .srl, s.ixd d), (.srlAtIy d, .srl, s.iyd d)],
      ∃ t, exec x.1 s = .next t ∧ Stored s t x.2.2 (rotResult x.2.1 s.f.c (s.read x.2.2)) ∧
        FlagsAre t.f (rotFlags (rotResult x.2.1 s.f.c (s.read x.2.2)) (rotCarry x.2.1 (s.read x.2.2))) ∧
        Frame s t allFlags)

/-- R353, R354: the digit rotations between A and (HL). -/
def Obligations.RotateDigits : Prop :=
  ∀ s : State, Quiet s →
    (∃ t, exec .rld s = .next t ∧
      Stored s t s.hl (BitVec.ofNat 8 (16 * ((s.read s.hl).toNat % 16) + s.a.toNat % 16)) ∧
      t.a.toNat = 16 * (s.a.toNat / 16) + (s.read s.hl).toNat / 16 ∧
      t.f.s = t.a.msb ∧ t.f.z = (t.a == 0#8) ∧ t.f.h = false ∧ t.f.pv = parity t.a ∧ t.f.n = false ∧
      Frame s t (.a :: flagsButC)) ∧
    (∃ t, exec .rrd s = .next t ∧
      Stored s t s.hl (BitVec.ofNat 8 (16 * (s.a.toNat % 16) + (s.read s.hl).toNat / 16)) ∧
      t.a.toNat = 16 * (s.a.toNat / 16) + (s.read s.hl).toNat % 16 ∧
      t.f.s = t.a.msb ∧ t.f.z = (t.a == 0#8) ∧ t.f.h = false ∧ t.f.pv = parity t.a ∧ t.f.n = false ∧
      Frame s t (.a :: flagsButC))

/-- R360 to R363, for b from 0 to 7: BIT writes Z, H and N, keeps C, and changes no register and no memory; S and P/V are not said.
For b of 8 or more, which no word encodes, that the bit reads 0 is the model's choice (log 21). -/
def Obligations.TestBit : Prop :=
  ∀ (b : Nat) (r : Reg8) (d : Byte) (s : State), Quiet s →
    ∀ x ∈ [(Instr.bitR b r, s.reg r), (.bitAtHl b, s.read s.hl), (.bitAtIx b d, s.read (s.ixd d)),
        (.bitAtIy b d, s.read (s.iyd d))],
      ∃ t, exec x.1 s = .next t ∧ t.f.z = !x.2.getLsbD b ∧ t.f.h = true ∧ t.f.n = false ∧
        Frame s t flagsButC ∧ SameMem s t

/-- R364 to R371, for b from 0 to 7: SET and RES change one bit of the register or the memory byte and nothing else. For b of 8 or
more, which no word encodes, that no bit changes is the model's choice (log 21). -/
def Obligations.SetResetBit : Prop :=
  ∀ (b : Nat) (r : Reg8) (d : Byte) (s : State),
    (∃ t, exec (.setR b r) s = .next t ∧
      (∀ k : Nat, k < 8 → (t.reg r).getLsbD k = (decide (k = b) || (s.reg r).getLsbD k)) ∧
      Frame s t [regLoc r] ∧ SameMem s t) ∧
    (∃ t, exec (.resR b r) s = .next t ∧
      (∀ k : Nat, k < 8 → (t.reg r).getLsbD k = (!decide (k = b) && (s.reg r).getLsbD k)) ∧
      Frame s t [regLoc r] ∧ SameMem s t) ∧
    (Quiet s →
    (∀ x ∈ [(Instr.setAtHl b, s.hl), (.setAtIx b d, s.ixd d), (.setAtIy b d, s.iyd d)],
      ∃ t v, exec x.1 s = .next t ∧ Stored s t x.2 v ∧
        (∀ k : Nat, k < 8 → v.getLsbD k = (decide (k = b) || (s.read x.2).getLsbD k)) ∧ Frame s t []) ∧
    (∀ x ∈ [(Instr.resAtHl b, s.hl), (.resAtIx b d, s.ixd d), (.resAtIy b d, s.iyd d)],
      ∃ t v, exec x.1 s = .next t ∧ Stored s t x.2 v ∧
        (∀ k : Nat, k < 8 → v.getLsbD k = (!decide (k = b) && (s.read x.2).getLsbD k)) ∧ Frame s t []))

/-! Input and output. -/

/-- R380, R381, R386, R387: an input makes exactly one port read, an output one port write; `IN r,(C)` writes the flags of the
value, the others write none. -/
def Obligations.InputOutputPort : Prop :=
  ∀ (n : Byte) (r : Reg8) (s : State), Quiet s →
    (∃ t, exec (.inAN n) s = .next t ∧ t.a = s.input (wordOf s.a n) ∧
      t.plat.busLog = s.plat.busLog ++ [.ioRead (wordOf s.a n) (s.input (wordOf s.a n))] ∧
      Frame s t [.a] ∧ SameMem s t) ∧
    (∃ t, exec (.inRC r) s = .next t ∧ t.reg r = s.input s.bc ∧
      t.plat.busLog = s.plat.busLog ++ [.ioRead s.bc (s.input s.bc)] ∧
      t.f.s = (s.input s.bc).msb ∧ t.f.z = (s.input s.bc == 0#8) ∧ t.f.h = false ∧ t.f.pv = parity (s.input s.bc) ∧
      t.f.n = false ∧ Frame s t (regLoc r :: flagsButC) ∧ SameMem s t) ∧
    (∃ t, exec (.outNA n) s = .next t ∧ t.plat.busLog = s.plat.busLog ++ [.ioWrite (wordOf s.a n) s.a] ∧
      Frame s t [] ∧ SameMem s t) ∧
    (∃ t, exec (.outCR r) s = .next t ∧ t.plat.busLog = s.plat.busLog ++ [.ioWrite s.bc (s.reg r)] ∧
      Frame s t [] ∧ SameMem s t)

/-- R382 to R385, R392, R214: one iteration of a block input, the port addressed with B before its decrement. -/
def Obligations.BlockInput : Prop :=
  ∀ s : State, Quiet s →
    ∀ x ∈ [(Instr.ini, 1#16, false), (.ind, 0xFFFF#16, false), (.inir, 1#16, true), (.indr, 0xFFFF#16, true)],
      ∃ t, exec x.1 s = .next t ∧ Stored s t s.hl (s.input s.bc) ∧
        t.plat.busLog = s.plat.busLog ++ .ioRead s.bc (s.input s.bc) ::
          (if s.plat.kindAt s.hl = .ram then [] else [.memWrite s.hl (s.input s.bc)]) ∧
        t.b = s.b - 1 ∧ t.hl = s.hl + x.2.1 ∧ t.f.z = (s.b - 1 == 0#8) ∧
        t.pc = (if x.2.2 = true ∧ s.b - 1 ≠ 0#8 then s.pc - 2 else s.pc) ∧
        Frame s t ([.b, .h, .l, .pc] ++ allFlags)

/-- R388 to R391, R392, R214: one iteration of a block output, the port addressed with B after its decrement. -/
def Obligations.BlockOutput : Prop :=
  ∀ s : State, Quiet s →
    ∀ x ∈ [(Instr.outi, 1#16, false), (.outd, 0xFFFF#16, false), (.otir, 1#16, true), (.otdr, 0xFFFF#16, true)],
      ∃ t, exec x.1 s = .next t ∧
        t.plat.busLog = (s.afterRead s.hl).plat.busLog ++ [.ioWrite (wordOf (s.b - 1) s.c) (s.read s.hl)] ∧
        t.b = s.b - 1 ∧ t.hl = s.hl + x.2.1 ∧ t.f.z = (s.b - 1 == 0#8) ∧
        t.pc = (if x.2.2 = true ∧ s.b - 1 ≠ 0#8 then s.pc - 2 else s.pc) ∧
        Frame s t ([.b, .h, .l, .pc] ++ allFlags) ∧ SameMem s t

/-! Jumps, calls, returns. -/

/-- R108, R400 to R410: the jumps write PC and nothing else; a condition not met leaves the state as it is; DJNZ counts B down, jumps
while it is not 0, and writes no flag. -/
def Obligations.Jumps : Prop :=
  ∀ (cc : Cond) (nn : Word) (e : Byte) (s : State),
    (∀ x ∈ [(Instr.jpNn nn, nn), (.jrE e, s.relative e), (.jpHl, s.hl), (.jpIx, s.ix), (.jpIy, s.iy)],
      ∃ t, exec x.1 s = .next t ∧ t.pc = x.2 ∧ Frame s t [.pc] ∧ SameMem s t) ∧
    (∀ x ∈ [(Instr.jpCcNn .nz nn, nn, !s.f.z), (.jpCcNn .z nn, nn, s.f.z), (.jpCcNn .nc nn, nn, !s.f.c),
        (.jpCcNn .c nn, nn, s.f.c), (.jpCcNn .po nn, nn, !s.f.pv), (.jpCcNn .pe nn, nn, s.f.pv),
        (.jpCcNn .p nn, nn, !s.f.s), (.jpCcNn .m nn, nn, s.f.s), (.jpCcNn cc nn, nn, s.f.holds cc),
        (.jrCE e, s.relative e, s.f.c), (.jrNcE e, s.relative e, !s.f.c), (.jrZE e, s.relative e, s.f.z),
        (.jrNzE e, s.relative e, !s.f.z)],
      ∃ t, exec x.1 s = .next t ∧ t.pc = (if x.2.2 = true then x.2.1 else s.pc) ∧ Frame s t [.pc] ∧ SameMem s t) ∧
    (∃ t, exec (.djnzE e) s = .next t ∧ t.b = s.b - 1 ∧ t.pc = (if s.b ≠ 1#8 then s.relative e else s.pc) ∧
      Frame s t [.b, .pc] ∧ SameMem s t)

/-- R411, R412, R417: a call pushes the address of the next instruction; a call not taken pushes nothing. For a restart address that
is none of the eight of R417, which no word encodes, that it is used as it stands is the model's choice (log 21). -/
def Obligations.CallsAndRestarts : Prop :=
  ∀ (cc : Cond) (nn : Word) (p : Byte) (s : State), Quiet s →
    (∀ x ∈ [(Instr.callNn nn, nn), (.rstP p, BitVec.zeroExtend 16 p)],
      ∃ t, exec x.1 s = .next t ∧ t.pc = x.2 ∧ t.sp = s.sp - 2 ∧ Stored16 s t (s.sp - 2) s.pc ∧ Frame s t [.pc, .sp]) ∧
    (s.f.holds cc = true →
      ∃ t, exec (.callCcNn cc nn) s = .next t ∧ t.pc = nn ∧ t.sp = s.sp - 2 ∧ Stored16 s t (s.sp - 2) s.pc ∧
        Frame s t [.pc, .sp]) ∧
    (s.f.holds cc = false → exec (.callCcNn cc nn) s = .next s)

/-- R413 to R416: a return pops PC; RETN copies IFF2 to IFF1, RETI changes neither; a return not taken does nothing. -/
def Obligations.Returns : Prop :=
  ∀ (cc : Cond) (s : State), Quiet s →
    (∀ x ∈ [(Instr.ret, s.iff1, []), (.reti, s.iff1, []), (.retn, s.iff2, [Loc.iff1])],
      ∃ t, exec x.1 s = .next t ∧ t.pc = s.pop16 ∧ t.sp = s.sp + 2 ∧ t.iff1 = x.2.1 ∧ t.iff2 = s.iff2 ∧
        Frame s t ([.pc, .sp] ++ x.2.2) ∧ SameMem s t) ∧
    (s.f.holds cc = true →
      ∃ t, exec (.retCc cc) s = .next t ∧ t.pc = s.pop16 ∧ t.sp = s.sp + 2 ∧ Frame s t [.pc, .sp] ∧ SameMem s t) ∧
    (s.f.holds cc = false → exec (.retCc cc) s = .next s)

/-! Interrupts, HALT. -/

/-- R445: the acceptance of an NMI. -/
def Obligations.NmiAcceptance : Prop :=
  ∀ s : State, s.resetLow = false → s.nmiPending = true → Quiet s →
    ∃ t, step s = .next t ∧ t.pc = 0x0066#16 ∧ t.iff1 = false ∧ t.iff2 = s.iff2 ∧ t.halted = false ∧
      t.nmiPending = false ∧ t.r = refreshNext s.r ∧ t.sp = s.sp - 2 ∧ Stored16 s t (s.sp - 2) s.pc ∧
      Frame s t [.pc, .sp, .r, .iff1, .halted, .nmiPending]

/-- R447 to R450: a maskable interrupt is acceptable exactly under the conditions of R447; its acceptance in mode 1, and in mode 0
with an RST byte on the bus, driven or not (log 17). With the stack in RAM the acknowledge cycle is the one bus event, its address
lines carrying PC (R452); that devices are known by a history of events is log 9. -/
def Obligations.IntAcceptanceRestart : Prop :=
  (∀ s : State, s.intAccepted = true ↔
    s.intLow = true ∧ s.iff1 = true ∧ s.eiShadow = false ∧ s.nmiPending = false) ∧
  ∀ (s : State) (target : Word), s.resetLow = false → s.intLow = true → s.iff1 = true → s.eiShadow = false →
    s.nmiPending = false → Quiet s →
    (s.im = .im1 ∧ target = 0x0038#16 ∨
      s.im = .im0 ∧ s.ackData &&& 0xC7#8 = 0xC7#8 ∧ target = BitVec.zeroExtend 16 (s.ackData &&& 0x38#8)) →
    ∃ t, step s = .next t ∧ t.pc = target ∧ t.iff1 = false ∧ t.iff2 = false ∧ t.halted = false ∧
      t.r = refreshNext s.r ∧ t.sp = s.sp - 2 ∧ Stored16 s t (s.sp - 2) s.pc ∧
      (s.plat.kindAt (s.sp - 1) = .ram → s.plat.kindAt (s.sp - 2) = .ram →
        t.plat.busLog = s.plat.busLog ++ [.intAck s.pc s.ackData]) ∧
      Frame s t ([.pc, .sp, .r, .iff1, .iff2, .halted] ++ if s.iffRead then [.flagPV] else [])

/-- R449, D12: mode 0 with a byte on the bus, driven or not (log 17), that is no RST opcode is refused by that name (log 13). -/
def Obligations.IntModeZeroRefused : Prop :=
  ∀ s : State, s.resetLow = false → s.intLow = true → s.iff1 = true → s.eiShadow = false → s.nmiPending = false →
    s.im = .im0 → s.ackData &&& 0xC7#8 ≠ 0xC7#8 → step s = .refused .mode0NotRst

/-- R448, R451: the acceptance in mode 2, the byte driven or not (log 17). The table entry is read after the push, low byte first,
whatever answers at its two addresses; where that is plain memory it is the two bytes held there. With `IM2_INDIRECT` false the word
itself is the handler's address. -/
def Obligations.IntAcceptanceVectored : Prop :=
  ∀ (s : State) (vec : Word), s.resetLow = false → s.intLow = true → s.iff1 = true → s.eiShadow = false →
    s.nmiPending = false → Quiet s → s.im = .im2 → vec = wordOf s.i s.ackData →
    ∃ t, step s = .next t ∧
      (s.im2Indirect = false → t.pc = vec) ∧
      (s.im2Indirect = true →
        t.pc = wordOf ((s.pushedForInt.afterRead vec).read (vec + 1)) (s.pushedForInt.read vec)) ∧
      (s.im2Indirect = true → s.plat.backed vec = true → s.plat.backed (vec + 1) = true →
        t.pc = wordOf (t.peek (vec + 1)) (t.peek vec)) ∧
      t.iff1 = false ∧ t.iff2 = false ∧ t.halted = false ∧ t.r = refreshNext s.r ∧ t.sp = s.sp - 2 ∧
      Stored16 s t (s.sp - 2) s.pc ∧
      Frame s t ([.pc, .sp, .r, .iff1, .iff2, .halted] ++ if s.iffRead then [.flagPV] else [])

/-- R439, R43: the step that executes EI ends in a state in which no maskable interrupt is accepted; so does DI. The step of every
instruction but EI ends with `ei_shadow` clear. -/
def Obligations.EnableDelay : Prop :=
  ∀ (s s1 : State), Running s →
    (s.fetch = some (.ei, s1) →
      ∃ t, step s = .next t ∧ t.iff1 = true ∧ t.iff2 = true ∧ t.eiShadow = true ∧ t.intAccepted = false) ∧
    (s.fetch = some (.di, s1) → ∃ t, step s = .next t ∧ t.iff1 = false ∧ t.iff2 = false ∧ t.intAccepted = false) ∧
    (∀ i : Instr, i ≠ .ei → s.fetch = some (i, s1) → ∃ t, step s = .next t ∧ t.eiShadow = false)

/-- R455, R437, R499: a halted CPU that no event wakes advances R and samples the inputs, nothing else (log 20). A run that has ended
(D18, log 27) stays ended, R counting on; and a run to its end stops in the first state of it that has ended. -/
def Obligations.HaltedStep : Prop :=
  (∀ s : State, s.resetLow = false → s.nmiPending = false → s.intAccepted = false → s.halted = true → Quiet s →
    ∃ t, step s = .next t ∧ t.halted = true ∧ t.pc = s.pc ∧ t.r = refreshNext s.r ∧ Sampled s t ∧
      Frame s t [.r, .nmiPending] ∧ SameMem s t) ∧
  (∀ s : State, s.runEnded = true → ∃ t, step s = .next t ∧ t.runEnded = true ∧ t.halted = true ∧ t.pc = s.pc ∧
    t.r = refreshNext s.r ∧ Frame s t [.r]) ∧
  (∀ (fuel : Nat) (s t : State), runToEnd fuel s = some (.next t) → t.runEnded = true ∧
    ∃ n, n ≤ fuel ∧ runSteps n s = .next t ∧
      ∀ k : Nat, k < n → ∃ u, runSteps k s = .next u ∧ u.runEnded = false)

/-- R446, R445, R416: RETN at the end of an NMI handler gives the interrupted program its PC, its SP and its enable state. -/
def Obligations.NmiReturnRestores : Prop :=
  ∀ s : State, s.resetLow = false → s.nmiPending = true → Quiet s →
    s.plat.kindAt (s.sp - 1) = .ram → s.plat.kindAt (s.sp - 2) = .ram →
    ∃ t u, step s = .next t ∧ exec .retn t = .next u ∧ u.pc = s.pc ∧ u.sp = s.sp ∧ u.iff1 = s.iff2 ∧
      u.iff2 = s.iff2 ∧ Frame s u [.r, .iff1, .halted, .nmiPending]

/-! Rules about the whole machine. -/

/-- The invariant holds after RESET; the canonical form of memory is the model's choice (log 2). -/
def Obligations.InvariantAtReset : Prop := State.reset.Inv

/-- R40, R43, R445, R448: every step, whatever it is and whatever other bus masters do, keeps the invariant. The canonical form of
memory is the model's choice (log 2). -/
def Obligations.InvariantKeptByStep : Prop :=
  ∀ s t : State, s.Inv → step s = .next t → t.Inv

/-- R29, R23, R41, R42: only the named instructions write each piece of control state and the alternate set. -/
def Obligations.ControlStateWriters : Prop :=
  ∀ (i : Instr) (s t : State), exec i s = .next t →
    (i ≠ .ei → i ≠ .di → i ≠ .retn → t.iff1 = s.iff1) ∧
    (i ≠ .ei → i ≠ .di → t.iff2 = s.iff2) ∧
    (i ≠ .im0 → i ≠ .im1 → i ≠ .im2 → t.im = s.im) ∧
    (i ≠ .ldIregA → t.i = s.i) ∧ (i ≠ .ldRregA → t.r = s.r) ∧
    (i ≠ .halt → t.halted = s.halted) ∧ (i ≠ .ei → t.eiShadow = s.eiShadow) ∧ t.nmiPending = s.nmiPending ∧
    (i ≠ .exAfAf → t.altA = s.altA ∧ t.altF = s.altF) ∧
    (i ≠ .exx → t.altB = s.altB ∧ t.altC = s.altC ∧ t.altD = s.altD ∧ t.altE = s.altE ∧ t.altH = s.altH ∧ t.altL = s.altL)

/-- R28: bit 7 of R is changed only by LD R,A and RESET. -/
def Obligations.RefreshBitSeven : Prop :=
  ∀ s t : State, step s = .next t → s.resetLow = false → (∀ s1, s.fetch ≠ some (.ldRregA, s1)) → t.r.msb = s.r.msb

/-- R430: no step faults, and no instruction is refused once it is fetched. That a term of `Instr` which no word encodes also has a
next state is the model's choice (log 21), and so is that `Fault` has no constructor; undocumented bytes are refused at the fetch, not
here (D7, log 14). -/
def Obligations.NothingFaults : Prop :=
  (∀ (s : State) (x : Fault), step s ≠ .fault x) ∧ ∀ (i : Instr) (s : State), ∃ t, exec i s = .next t
end

