-- ==== Sys2Proof/Laws/State.lean ====
section
/-! SUPPORT. One lemma per field per named update of State, true by rfl, so that no proof unfolds an update. -/

namespace Sys2Proof.Machine

/-! `State.withPlat`. -/

@[simp] theorem State.withPlat_a (s : State) (p : Platform) : (s.withPlat p).a = s.a := rfl
@[simp] theorem State.withPlat_f (s : State) (p : Platform) : (s.withPlat p).f = s.f := rfl
@[simp] theorem State.withPlat_b (s : State) (p : Platform) : (s.withPlat p).b = s.b := rfl
@[simp] theorem State.withPlat_c (s : State) (p : Platform) : (s.withPlat p).c = s.c := rfl
@[simp] theorem State.withPlat_d (s : State) (p : Platform) : (s.withPlat p).d = s.d := rfl
@[simp] theorem State.withPlat_e (s : State) (p : Platform) : (s.withPlat p).e = s.e := rfl
@[simp] theorem State.withPlat_h (s : State) (p : Platform) : (s.withPlat p).h = s.h := rfl
@[simp] theorem State.withPlat_l (s : State) (p : Platform) : (s.withPlat p).l = s.l := rfl
@[simp] theorem State.withPlat_altA (s : State) (p : Platform) : (s.withPlat p).altA = s.altA := rfl
@[simp] theorem State.withPlat_altF (s : State) (p : Platform) : (s.withPlat p).altF = s.altF := rfl
@[simp] theorem State.withPlat_altB (s : State) (p : Platform) : (s.withPlat p).altB = s.altB := rfl
@[simp] theorem State.withPlat_altC (s : State) (p : Platform) : (s.withPlat p).altC = s.altC := rfl
@[simp] theorem State.withPlat_altD (s : State) (p : Platform) : (s.withPlat p).altD = s.altD := rfl
@[simp] theorem State.withPlat_altE (s : State) (p : Platform) : (s.withPlat p).altE = s.altE := rfl
@[simp] theorem State.withPlat_altH (s : State) (p : Platform) : (s.withPlat p).altH = s.altH := rfl
@[simp] theorem State.withPlat_altL (s : State) (p : Platform) : (s.withPlat p).altL = s.altL := rfl
@[simp] theorem State.withPlat_ix (s : State) (p : Platform) : (s.withPlat p).ix = s.ix := rfl
@[simp] theorem State.withPlat_iy (s : State) (p : Platform) : (s.withPlat p).iy = s.iy := rfl
@[simp] theorem State.withPlat_sp (s : State) (p : Platform) : (s.withPlat p).sp = s.sp := rfl
@[simp] theorem State.withPlat_pc (s : State) (p : Platform) : (s.withPlat p).pc = s.pc := rfl
@[simp] theorem State.withPlat_i (s : State) (p : Platform) : (s.withPlat p).i = s.i := rfl
@[simp] theorem State.withPlat_r (s : State) (p : Platform) : (s.withPlat p).r = s.r := rfl
@[simp] theorem State.withPlat_iff1 (s : State) (p : Platform) : (s.withPlat p).iff1 = s.iff1 := rfl
@[simp] theorem State.withPlat_iff2 (s : State) (p : Platform) : (s.withPlat p).iff2 = s.iff2 := rfl
@[simp] theorem State.withPlat_im (s : State) (p : Platform) : (s.withPlat p).im = s.im := rfl
@[simp] theorem State.withPlat_halted (s : State) (p : Platform) : (s.withPlat p).halted = s.halted := rfl
@[simp] theorem State.withPlat_eiShadow (s : State) (p : Platform) : (s.withPlat p).eiShadow = s.eiShadow := rfl
@[simp] theorem State.withPlat_nmiPending (s : State) (p : Platform) : (s.withPlat p).nmiPending = s.nmiPending := rfl
@[simp] theorem State.withPlat_iffRead (s : State) (p : Platform) : (s.withPlat p).iffRead = s.iffRead := rfl
@[simp] theorem State.withPlat_intLow (s : State) (p : Platform) : (s.withPlat p).intLow = s.intLow := rfl
@[simp] theorem State.withPlat_intData (s : State) (p : Platform) : (s.withPlat p).intData = s.intData := rfl
@[simp] theorem State.withPlat_resetLow (s : State) (p : Platform) : (s.withPlat p).resetLow = s.resetLow := rfl
@[simp] theorem State.withPlat_schedule (s : State) (p : Platform) : (s.withPlat p).schedule = s.schedule := rfl
@[simp] theorem State.withPlat_im2Indirect (s : State) (p : Platform) : (s.withPlat p).im2Indirect = s.im2Indirect := rfl
@[simp] theorem State.withPlat_plat (s : State) (p : Platform) : (s.withPlat p).plat = p := rfl
@[simp] theorem State.withPlat_clock (s : State) (p : Platform) : (s.withPlat p).clock = s.clock := rfl

/-! `State.setFlagsFree`. -/

@[simp] theorem State.setFlagsFree_a (s : State) (k : Byte → Flags) : (s.setFlagsFree k).a = s.a := rfl
@[simp] theorem State.setFlagsFree_f (s : State) (k : Byte → Flags) : (s.setFlagsFree k).f = k s.free := rfl
@[simp] theorem State.setFlagsFree_b (s : State) (k : Byte → Flags) : (s.setFlagsFree k).b = s.b := rfl
@[simp] theorem State.setFlagsFree_c (s : State) (k : Byte → Flags) : (s.setFlagsFree k).c = s.c := rfl
@[simp] theorem State.setFlagsFree_d (s : State) (k : Byte → Flags) : (s.setFlagsFree k).d = s.d := rfl
@[simp] theorem State.setFlagsFree_e (s : State) (k : Byte → Flags) : (s.setFlagsFree k).e = s.e := rfl
@[simp] theorem State.setFlagsFree_h (s : State) (k : Byte → Flags) : (s.setFlagsFree k).h = s.h := rfl
@[simp] theorem State.setFlagsFree_l (s : State) (k : Byte → Flags) : (s.setFlagsFree k).l = s.l := rfl
@[simp] theorem State.setFlagsFree_altA (s : State) (k : Byte → Flags) : (s.setFlagsFree k).altA = s.altA := rfl
@[simp] theorem State.setFlagsFree_altF (s : State) (k : Byte → Flags) : (s.setFlagsFree k).altF = s.altF := rfl
@[simp] theorem State.setFlagsFree_altB (s : State) (k : Byte → Flags) : (s.setFlagsFree k).altB = s.altB := rfl
@[simp] theorem State.setFlagsFree_altC (s : State) (k : Byte → Flags) : (s.setFlagsFree k).altC = s.altC := rfl
@[simp] theorem State.setFlagsFree_altD (s : State) (k : Byte → Flags) : (s.setFlagsFree k).altD = s.altD := rfl
@[simp] theorem State.setFlagsFree_altE (s : State) (k : Byte → Flags) : (s.setFlagsFree k).altE = s.altE := rfl
@[simp] theorem State.setFlagsFree_altH (s : State) (k : Byte → Flags) : (s.setFlagsFree k).altH = s.altH := rfl
@[simp] theorem State.setFlagsFree_altL (s : State) (k : Byte → Flags) : (s.setFlagsFree k).altL = s.altL := rfl
@[simp] theorem State.setFlagsFree_ix (s : State) (k : Byte → Flags) : (s.setFlagsFree k).ix = s.ix := rfl
@[simp] theorem State.setFlagsFree_iy (s : State) (k : Byte → Flags) : (s.setFlagsFree k).iy = s.iy := rfl
@[simp] theorem State.setFlagsFree_sp (s : State) (k : Byte → Flags) : (s.setFlagsFree k).sp = s.sp := rfl
@[simp] theorem State.setFlagsFree_pc (s : State) (k : Byte → Flags) : (s.setFlagsFree k).pc = s.pc := rfl
@[simp] theorem State.setFlagsFree_i (s : State) (k : Byte → Flags) : (s.setFlagsFree k).i = s.i := rfl
@[simp] theorem State.setFlagsFree_r (s : State) (k : Byte → Flags) : (s.setFlagsFree k).r = s.r := rfl
@[simp] theorem State.setFlagsFree_iff1 (s : State) (k : Byte → Flags) : (s.setFlagsFree k).iff1 = s.iff1 := rfl
@[simp] theorem State.setFlagsFree_iff2 (s : State) (k : Byte → Flags) : (s.setFlagsFree k).iff2 = s.iff2 := rfl
@[simp] theorem State.setFlagsFree_im (s : State) (k : Byte → Flags) : (s.setFlagsFree k).im = s.im := rfl
@[simp] theorem State.setFlagsFree_halted (s : State) (k : Byte → Flags) : (s.setFlagsFree k).halted = s.halted := rfl
@[simp] theorem State.setFlagsFree_eiShadow (s : State) (k : Byte → Flags) : (s.setFlagsFree k).eiShadow = s.eiShadow := rfl
@[simp] theorem State.setFlagsFree_nmiPending (s : State) (k : Byte → Flags) : (s.setFlagsFree k).nmiPending = s.nmiPending := rfl
@[simp] theorem State.setFlagsFree_iffRead (s : State) (k : Byte → Flags) : (s.setFlagsFree k).iffRead = s.iffRead := rfl
@[simp] theorem State.setFlagsFree_intLow (s : State) (k : Byte → Flags) : (s.setFlagsFree k).intLow = s.intLow := rfl
@[simp] theorem State.setFlagsFree_intData (s : State) (k : Byte → Flags) : (s.setFlagsFree k).intData = s.intData := rfl
@[simp] theorem State.setFlagsFree_resetLow (s : State) (k : Byte → Flags) : (s.setFlagsFree k).resetLow = s.resetLow := rfl
@[simp] theorem State.setFlagsFree_schedule (s : State) (k : Byte → Flags) : (s.setFlagsFree k).schedule = s.schedule := rfl
@[simp] theorem State.setFlagsFree_im2Indirect (s : State) (k : Byte → Flags) : (s.setFlagsFree k).im2Indirect = s.im2Indirect := rfl
@[simp] theorem State.setFlagsFree_plat (s : State) (k : Byte → Flags) : (s.setFlagsFree k).plat = s.plat.drawn := rfl
@[simp] theorem State.setFlagsFree_clock (s : State) (k : Byte → Flags) : (s.setFlagsFree k).clock = s.clock := rfl

/-! `State.setFlags`. -/

@[simp] theorem State.setFlags_a (s : State) (g : Flags) : (s.setFlags g).a = s.a := rfl
@[simp] theorem State.setFlags_f (s : State) (g : Flags) : (s.setFlags g).f = g.withFreeX s.free := rfl
@[simp] theorem State.setFlags_b (s : State) (g : Flags) : (s.setFlags g).b = s.b := rfl
@[simp] theorem State.setFlags_c (s : State) (g : Flags) : (s.setFlags g).c = s.c := rfl
@[simp] theorem State.setFlags_d (s : State) (g : Flags) : (s.setFlags g).d = s.d := rfl
@[simp] theorem State.setFlags_e (s : State) (g : Flags) : (s.setFlags g).e = s.e := rfl
@[simp] theorem State.setFlags_h (s : State) (g : Flags) : (s.setFlags g).h = s.h := rfl
@[simp] theorem State.setFlags_l (s : State) (g : Flags) : (s.setFlags g).l = s.l := rfl
@[simp] theorem State.setFlags_altA (s : State) (g : Flags) : (s.setFlags g).altA = s.altA := rfl
@[simp] theorem State.setFlags_altF (s : State) (g : Flags) : (s.setFlags g).altF = s.altF := rfl
@[simp] theorem State.setFlags_altB (s : State) (g : Flags) : (s.setFlags g).altB = s.altB := rfl
@[simp] theorem State.setFlags_altC (s : State) (g : Flags) : (s.setFlags g).altC = s.altC := rfl
@[simp] theorem State.setFlags_altD (s : State) (g : Flags) : (s.setFlags g).altD = s.altD := rfl
@[simp] theorem State.setFlags_altE (s : State) (g : Flags) : (s.setFlags g).altE = s.altE := rfl
@[simp] theorem State.setFlags_altH (s : State) (g : Flags) : (s.setFlags g).altH = s.altH := rfl
@[simp] theorem State.setFlags_altL (s : State) (g : Flags) : (s.setFlags g).altL = s.altL := rfl
@[simp] theorem State.setFlags_ix (s : State) (g : Flags) : (s.setFlags g).ix = s.ix := rfl
@[simp] theorem State.setFlags_iy (s : State) (g : Flags) : (s.setFlags g).iy = s.iy := rfl
@[simp] theorem State.setFlags_sp (s : State) (g : Flags) : (s.setFlags g).sp = s.sp := rfl
@[simp] theorem State.setFlags_pc (s : State) (g : Flags) : (s.setFlags g).pc = s.pc := rfl
@[simp] theorem State.setFlags_i (s : State) (g : Flags) : (s.setFlags g).i = s.i := rfl
@[simp] theorem State.setFlags_r (s : State) (g : Flags) : (s.setFlags g).r = s.r := rfl
@[simp] theorem State.setFlags_iff1 (s : State) (g : Flags) : (s.setFlags g).iff1 = s.iff1 := rfl
@[simp] theorem State.setFlags_iff2 (s : State) (g : Flags) : (s.setFlags g).iff2 = s.iff2 := rfl
@[simp] theorem State.setFlags_im (s : State) (g : Flags) : (s.setFlags g).im = s.im := rfl
@[simp] theorem State.setFlags_halted (s : State) (g : Flags) : (s.setFlags g).halted = s.halted := rfl
@[simp] theorem State.setFlags_eiShadow (s : State) (g : Flags) : (s.setFlags g).eiShadow = s.eiShadow := rfl
@[simp] theorem State.setFlags_nmiPending (s : State) (g : Flags) : (s.setFlags g).nmiPending = s.nmiPending := rfl
@[simp] theorem State.setFlags_iffRead (s : State) (g : Flags) : (s.setFlags g).iffRead = s.iffRead := rfl
@[simp] theorem State.setFlags_intLow (s : State) (g : Flags) : (s.setFlags g).intLow = s.intLow := rfl
@[simp] theorem State.setFlags_intData (s : State) (g : Flags) : (s.setFlags g).intData = s.intData := rfl
@[simp] theorem State.setFlags_resetLow (s : State) (g : Flags) : (s.setFlags g).resetLow = s.resetLow := rfl
@[simp] theorem State.setFlags_schedule (s : State) (g : Flags) : (s.setFlags g).schedule = s.schedule := rfl
@[simp] theorem State.setFlags_im2Indirect (s : State) (g : Flags) : (s.setFlags g).im2Indirect = s.im2Indirect := rfl
@[simp] theorem State.setFlags_plat (s : State) (g : Flags) : (s.setFlags g).plat = s.plat.drawn := rfl
@[simp] theorem State.setFlags_clock (s : State) (g : Flags) : (s.setFlags g).clock = s.clock := rfl

/-! `State.m1`. -/

@[simp] theorem State.m1_a (s : State) : (s.m1).a = s.a := rfl
@[simp] theorem State.m1_f (s : State) : (s.m1).f = s.f := rfl
@[simp] theorem State.m1_b (s : State) : (s.m1).b = s.b := rfl
@[simp] theorem State.m1_c (s : State) : (s.m1).c = s.c := rfl
@[simp] theorem State.m1_d (s : State) : (s.m1).d = s.d := rfl
@[simp] theorem State.m1_e (s : State) : (s.m1).e = s.e := rfl
@[simp] theorem State.m1_h (s : State) : (s.m1).h = s.h := rfl
@[simp] theorem State.m1_l (s : State) : (s.m1).l = s.l := rfl
@[simp] theorem State.m1_altA (s : State) : (s.m1).altA = s.altA := rfl
@[simp] theorem State.m1_altF (s : State) : (s.m1).altF = s.altF := rfl
@[simp] theorem State.m1_altB (s : State) : (s.m1).altB = s.altB := rfl
@[simp] theorem State.m1_altC (s : State) : (s.m1).altC = s.altC := rfl
@[simp] theorem State.m1_altD (s : State) : (s.m1).altD = s.altD := rfl
@[simp] theorem State.m1_altE (s : State) : (s.m1).altE = s.altE := rfl
@[simp] theorem State.m1_altH (s : State) : (s.m1).altH = s.altH := rfl
@[simp] theorem State.m1_altL (s : State) : (s.m1).altL = s.altL := rfl
@[simp] theorem State.m1_ix (s : State) : (s.m1).ix = s.ix := rfl
@[simp] theorem State.m1_iy (s : State) : (s.m1).iy = s.iy := rfl
@[simp] theorem State.m1_sp (s : State) : (s.m1).sp = s.sp := rfl
@[simp] theorem State.m1_pc (s : State) : (s.m1).pc = s.pc := rfl
@[simp] theorem State.m1_i (s : State) : (s.m1).i = s.i := rfl
@[simp] theorem State.m1_r (s : State) : (s.m1).r = refreshNext s.r := rfl
@[simp] theorem State.m1_iff1 (s : State) : (s.m1).iff1 = s.iff1 := rfl
@[simp] theorem State.m1_iff2 (s : State) : (s.m1).iff2 = s.iff2 := rfl
@[simp] theorem State.m1_im (s : State) : (s.m1).im = s.im := rfl
@[simp] theorem State.m1_halted (s : State) : (s.m1).halted = s.halted := rfl
@[simp] theorem State.m1_eiShadow (s : State) : (s.m1).eiShadow = s.eiShadow := rfl
@[simp] theorem State.m1_nmiPending (s : State) : (s.m1).nmiPending = s.nmiPending := rfl
@[simp] theorem State.m1_iffRead (s : State) : (s.m1).iffRead = s.iffRead := rfl
@[simp] theorem State.m1_intLow (s : State) : (s.m1).intLow = s.intLow := rfl
@[simp] theorem State.m1_intData (s : State) : (s.m1).intData = s.intData := rfl
@[simp] theorem State.m1_resetLow (s : State) : (s.m1).resetLow = s.resetLow := rfl
@[simp] theorem State.m1_schedule (s : State) : (s.m1).schedule = s.schedule := rfl
@[simp] theorem State.m1_im2Indirect (s : State) : (s.m1).im2Indirect = s.im2Indirect := rfl
@[simp] theorem State.m1_plat (s : State) : (s.m1).plat = s.plat := rfl
@[simp] theorem State.m1_clock (s : State) : (s.m1).clock = s.clock := rfl

/-! `State.jump`. -/

@[simp] theorem State.jump_a (s : State) (t : Word) : (s.jump t).a = s.a := rfl
@[simp] theorem State.jump_f (s : State) (t : Word) : (s.jump t).f = s.f := rfl
@[simp] theorem State.jump_b (s : State) (t : Word) : (s.jump t).b = s.b := rfl
@[simp] theorem State.jump_c (s : State) (t : Word) : (s.jump t).c = s.c := rfl
@[simp] theorem State.jump_d (s : State) (t : Word) : (s.jump t).d = s.d := rfl
@[simp] theorem State.jump_e (s : State) (t : Word) : (s.jump t).e = s.e := rfl
@[simp] theorem State.jump_h (s : State) (t : Word) : (s.jump t).h = s.h := rfl
@[simp] theorem State.jump_l (s : State) (t : Word) : (s.jump t).l = s.l := rfl
@[simp] theorem State.jump_altA (s : State) (t : Word) : (s.jump t).altA = s.altA := rfl
@[simp] theorem State.jump_altF (s : State) (t : Word) : (s.jump t).altF = s.altF := rfl
@[simp] theorem State.jump_altB (s : State) (t : Word) : (s.jump t).altB = s.altB := rfl
@[simp] theorem State.jump_altC (s : State) (t : Word) : (s.jump t).altC = s.altC := rfl
@[simp] theorem State.jump_altD (s : State) (t : Word) : (s.jump t).altD = s.altD := rfl
@[simp] theorem State.jump_altE (s : State) (t : Word) : (s.jump t).altE = s.altE := rfl
@[simp] theorem State.jump_altH (s : State) (t : Word) : (s.jump t).altH = s.altH := rfl
@[simp] theorem State.jump_altL (s : State) (t : Word) : (s.jump t).altL = s.altL := rfl
@[simp] theorem State.jump_ix (s : State) (t : Word) : (s.jump t).ix = s.ix := rfl
@[simp] theorem State.jump_iy (s : State) (t : Word) : (s.jump t).iy = s.iy := rfl
@[simp] theorem State.jump_sp (s : State) (t : Word) : (s.jump t).sp = s.sp := rfl
@[simp] theorem State.jump_pc (s : State) (t : Word) : (s.jump t).pc = t := rfl
@[simp] theorem State.jump_i (s : State) (t : Word) : (s.jump t).i = s.i := rfl
@[simp] theorem State.jump_r (s : State) (t : Word) : (s.jump t).r = s.r := rfl
@[simp] theorem State.jump_iff1 (s : State) (t : Word) : (s.jump t).iff1 = s.iff1 := rfl
@[simp] theorem State.jump_iff2 (s : State) (t : Word) : (s.jump t).iff2 = s.iff2 := rfl
@[simp] theorem State.jump_im (s : State) (t : Word) : (s.jump t).im = s.im := rfl
@[simp] theorem State.jump_halted (s : State) (t : Word) : (s.jump t).halted = s.halted := rfl
@[simp] theorem State.jump_eiShadow (s : State) (t : Word) : (s.jump t).eiShadow = s.eiShadow := rfl
@[simp] theorem State.jump_nmiPending (s : State) (t : Word) : (s.jump t).nmiPending = s.nmiPending := rfl
@[simp] theorem State.jump_iffRead (s : State) (t : Word) : (s.jump t).iffRead = s.iffRead := rfl
@[simp] theorem State.jump_intLow (s : State) (t : Word) : (s.jump t).intLow = s.intLow := rfl
@[simp] theorem State.jump_intData (s : State) (t : Word) : (s.jump t).intData = s.intData := rfl
@[simp] theorem State.jump_resetLow (s : State) (t : Word) : (s.jump t).resetLow = s.resetLow := rfl
@[simp] theorem State.jump_schedule (s : State) (t : Word) : (s.jump t).schedule = s.schedule := rfl
@[simp] theorem State.jump_im2Indirect (s : State) (t : Word) : (s.jump t).im2Indirect = s.im2Indirect := rfl
@[simp] theorem State.jump_plat (s : State) (t : Word) : (s.jump t).plat = s.plat := rfl
@[simp] theorem State.jump_clock (s : State) (t : Word) : (s.jump t).clock = s.clock := rfl

/-! `State.setBc`. -/

@[simp] theorem State.setBc_a (s : State) (v : Word) : (s.setBc v).a = s.a := rfl
@[simp] theorem State.setBc_f (s : State) (v : Word) : (s.setBc v).f = s.f := rfl
@[simp] theorem State.setBc_b (s : State) (v : Word) : (s.setBc v).b = hiByte v := rfl
@[simp] theorem State.setBc_c (s : State) (v : Word) : (s.setBc v).c = loByte v := rfl
@[simp] theorem State.setBc_d (s : State) (v : Word) : (s.setBc v).d = s.d := rfl
@[simp] theorem State.setBc_e (s : State) (v : Word) : (s.setBc v).e = s.e := rfl
@[simp] theorem State.setBc_h (s : State) (v : Word) : (s.setBc v).h = s.h := rfl
@[simp] theorem State.setBc_l (s : State) (v : Word) : (s.setBc v).l = s.l := rfl
@[simp] theorem State.setBc_altA (s : State) (v : Word) : (s.setBc v).altA = s.altA := rfl
@[simp] theorem State.setBc_altF (s : State) (v : Word) : (s.setBc v).altF = s.altF := rfl
@[simp] theorem State.setBc_altB (s : State) (v : Word) : (s.setBc v).altB = s.altB := rfl
@[simp] theorem State.setBc_altC (s : State) (v : Word) : (s.setBc v).altC = s.altC := rfl
@[simp] theorem State.setBc_altD (s : State) (v : Word) : (s.setBc v).altD = s.altD := rfl
@[simp] theorem State.setBc_altE (s : State) (v : Word) : (s.setBc v).altE = s.altE := rfl
@[simp] theorem State.setBc_altH (s : State) (v : Word) : (s.setBc v).altH = s.altH := rfl
@[simp] theorem State.setBc_altL (s : State) (v : Word) : (s.setBc v).altL = s.altL := rfl
@[simp] theorem State.setBc_ix (s : State) (v : Word) : (s.setBc v).ix = s.ix := rfl
@[simp] theorem State.setBc_iy (s : State) (v : Word) : (s.setBc v).iy = s.iy := rfl
@[simp] theorem State.setBc_sp (s : State) (v : Word) : (s.setBc v).sp = s.sp := rfl
@[simp] theorem State.setBc_pc (s : State) (v : Word) : (s.setBc v).pc = s.pc := rfl
@[simp] theorem State.setBc_i (s : State) (v : Word) : (s.setBc v).i = s.i := rfl
@[simp] theorem State.setBc_r (s : State) (v : Word) : (s.setBc v).r = s.r := rfl
@[simp] theorem State.setBc_iff1 (s : State) (v : Word) : (s.setBc v).iff1 = s.iff1 := rfl
@[simp] theorem State.setBc_iff2 (s : State) (v : Word) : (s.setBc v).iff2 = s.iff2 := rfl
@[simp] theorem State.setBc_im (s : State) (v : Word) : (s.setBc v).im = s.im := rfl
@[simp] theorem State.setBc_halted (s : State) (v : Word) : (s.setBc v).halted = s.halted := rfl
@[simp] theorem State.setBc_eiShadow (s : State) (v : Word) : (s.setBc v).eiShadow = s.eiShadow := rfl
@[simp] theorem State.setBc_nmiPending (s : State) (v : Word) : (s.setBc v).nmiPending = s.nmiPending := rfl
@[simp] theorem State.setBc_iffRead (s : State) (v : Word) : (s.setBc v).iffRead = s.iffRead := rfl
@[simp] theorem State.setBc_intLow (s : State) (v : Word) : (s.setBc v).intLow = s.intLow := rfl
@[simp] theorem State.setBc_intData (s : State) (v : Word) : (s.setBc v).intData = s.intData := rfl
@[simp] theorem State.setBc_resetLow (s : State) (v : Word) : (s.setBc v).resetLow = s.resetLow := rfl
@[simp] theorem State.setBc_schedule (s : State) (v : Word) : (s.setBc v).schedule = s.schedule := rfl
@[simp] theorem State.setBc_im2Indirect (s : State) (v : Word) : (s.setBc v).im2Indirect = s.im2Indirect := rfl
@[simp] theorem State.setBc_plat (s : State) (v : Word) : (s.setBc v).plat = s.plat := rfl
@[simp] theorem State.setBc_clock (s : State) (v : Word) : (s.setBc v).clock = s.clock := rfl

/-! `State.setDe`. -/

@[simp] theorem State.setDe_a (s : State) (v : Word) : (s.setDe v).a = s.a := rfl
@[simp] theorem State.setDe_f (s : State) (v : Word) : (s.setDe v).f = s.f := rfl
@[simp] theorem State.setDe_b (s : State) (v : Word) : (s.setDe v).b = s.b := rfl
@[simp] theorem State.setDe_c (s : State) (v : Word) : (s.setDe v).c = s.c := rfl
@[simp] theorem State.setDe_d (s : State) (v : Word) : (s.setDe v).d = hiByte v := rfl
@[simp] theorem State.setDe_e (s : State) (v : Word) : (s.setDe v).e = loByte v := rfl
@[simp] theorem State.setDe_h (s : State) (v : Word) : (s.setDe v).h = s.h := rfl
@[simp] theorem State.setDe_l (s : State) (v : Word) : (s.setDe v).l = s.l := rfl
@[simp] theorem State.setDe_altA (s : State) (v : Word) : (s.setDe v).altA = s.altA := rfl
@[simp] theorem State.setDe_altF (s : State) (v : Word) : (s.setDe v).altF = s.altF := rfl
@[simp] theorem State.setDe_altB (s : State) (v : Word) : (s.setDe v).altB = s.altB := rfl
@[simp] theorem State.setDe_altC (s : State) (v : Word) : (s.setDe v).altC = s.altC := rfl
@[simp] theorem State.setDe_altD (s : State) (v : Word) : (s.setDe v).altD = s.altD := rfl
@[simp] theorem State.setDe_altE (s : State) (v : Word) : (s.setDe v).altE = s.altE := rfl
@[simp] theorem State.setDe_altH (s : State) (v : Word) : (s.setDe v).altH = s.altH := rfl
@[simp] theorem State.setDe_altL (s : State) (v : Word) : (s.setDe v).altL = s.altL := rfl
@[simp] theorem State.setDe_ix (s : State) (v : Word) : (s.setDe v).ix = s.ix := rfl
@[simp] theorem State.setDe_iy (s : State) (v : Word) : (s.setDe v).iy = s.iy := rfl
@[simp] theorem State.setDe_sp (s : State) (v : Word) : (s.setDe v).sp = s.sp := rfl
@[simp] theorem State.setDe_pc (s : State) (v : Word) : (s.setDe v).pc = s.pc := rfl
@[simp] theorem State.setDe_i (s : State) (v : Word) : (s.setDe v).i = s.i := rfl
@[simp] theorem State.setDe_r (s : State) (v : Word) : (s.setDe v).r = s.r := rfl
@[simp] theorem State.setDe_iff1 (s : State) (v : Word) : (s.setDe v).iff1 = s.iff1 := rfl
@[simp] theorem State.setDe_iff2 (s : State) (v : Word) : (s.setDe v).iff2 = s.iff2 := rfl
@[simp] theorem State.setDe_im (s : State) (v : Word) : (s.setDe v).im = s.im := rfl
@[simp] theorem State.setDe_halted (s : State) (v : Word) : (s.setDe v).halted = s.halted := rfl
@[simp] theorem State.setDe_eiShadow (s : State) (v : Word) : (s.setDe v).eiShadow = s.eiShadow := rfl
@[simp] theorem State.setDe_nmiPending (s : State) (v : Word) : (s.setDe v).nmiPending = s.nmiPending := rfl
@[simp] theorem State.setDe_iffRead (s : State) (v : Word) : (s.setDe v).iffRead = s.iffRead := rfl
@[simp] theorem State.setDe_intLow (s : State) (v : Word) : (s.setDe v).intLow = s.intLow := rfl
@[simp] theorem State.setDe_intData (s : State) (v : Word) : (s.setDe v).intData = s.intData := rfl
@[simp] theorem State.setDe_resetLow (s : State) (v : Word) : (s.setDe v).resetLow = s.resetLow := rfl
@[simp] theorem State.setDe_schedule (s : State) (v : Word) : (s.setDe v).schedule = s.schedule := rfl
@[simp] theorem State.setDe_im2Indirect (s : State) (v : Word) : (s.setDe v).im2Indirect = s.im2Indirect := rfl
@[simp] theorem State.setDe_plat (s : State) (v : Word) : (s.setDe v).plat = s.plat := rfl
@[simp] theorem State.setDe_clock (s : State) (v : Word) : (s.setDe v).clock = s.clock := rfl

/-! `State.setHl`. -/

@[simp] theorem State.setHl_a (s : State) (v : Word) : (s.setHl v).a = s.a := rfl
@[simp] theorem State.setHl_f (s : State) (v : Word) : (s.setHl v).f = s.f := rfl
@[simp] theorem State.setHl_b (s : State) (v : Word) : (s.setHl v).b = s.b := rfl
@[simp] theorem State.setHl_c (s : State) (v : Word) : (s.setHl v).c = s.c := rfl
@[simp] theorem State.setHl_d (s : State) (v : Word) : (s.setHl v).d = s.d := rfl
@[simp] theorem State.setHl_e (s : State) (v : Word) : (s.setHl v).e = s.e := rfl
@[simp] theorem State.setHl_h (s : State) (v : Word) : (s.setHl v).h = hiByte v := rfl
@[simp] theorem State.setHl_l (s : State) (v : Word) : (s.setHl v).l = loByte v := rfl
@[simp] theorem State.setHl_altA (s : State) (v : Word) : (s.setHl v).altA = s.altA := rfl
@[simp] theorem State.setHl_altF (s : State) (v : Word) : (s.setHl v).altF = s.altF := rfl
@[simp] theorem State.setHl_altB (s : State) (v : Word) : (s.setHl v).altB = s.altB := rfl
@[simp] theorem State.setHl_altC (s : State) (v : Word) : (s.setHl v).altC = s.altC := rfl
@[simp] theorem State.setHl_altD (s : State) (v : Word) : (s.setHl v).altD = s.altD := rfl
@[simp] theorem State.setHl_altE (s : State) (v : Word) : (s.setHl v).altE = s.altE := rfl
@[simp] theorem State.setHl_altH (s : State) (v : Word) : (s.setHl v).altH = s.altH := rfl
@[simp] theorem State.setHl_altL (s : State) (v : Word) : (s.setHl v).altL = s.altL := rfl
@[simp] theorem State.setHl_ix (s : State) (v : Word) : (s.setHl v).ix = s.ix := rfl
@[simp] theorem State.setHl_iy (s : State) (v : Word) : (s.setHl v).iy = s.iy := rfl
@[simp] theorem State.setHl_sp (s : State) (v : Word) : (s.setHl v).sp = s.sp := rfl
@[simp] theorem State.setHl_pc (s : State) (v : Word) : (s.setHl v).pc = s.pc := rfl
@[simp] theorem State.setHl_i (s : State) (v : Word) : (s.setHl v).i = s.i := rfl
@[simp] theorem State.setHl_r (s : State) (v : Word) : (s.setHl v).r = s.r := rfl
@[simp] theorem State.setHl_iff1 (s : State) (v : Word) : (s.setHl v).iff1 = s.iff1 := rfl
@[simp] theorem State.setHl_iff2 (s : State) (v : Word) : (s.setHl v).iff2 = s.iff2 := rfl
@[simp] theorem State.setHl_im (s : State) (v : Word) : (s.setHl v).im = s.im := rfl
@[simp] theorem State.setHl_halted (s : State) (v : Word) : (s.setHl v).halted = s.halted := rfl
@[simp] theorem State.setHl_eiShadow (s : State) (v : Word) : (s.setHl v).eiShadow = s.eiShadow := rfl
@[simp] theorem State.setHl_nmiPending (s : State) (v : Word) : (s.setHl v).nmiPending = s.nmiPending := rfl
@[simp] theorem State.setHl_iffRead (s : State) (v : Word) : (s.setHl v).iffRead = s.iffRead := rfl
@[simp] theorem State.setHl_intLow (s : State) (v : Word) : (s.setHl v).intLow = s.intLow := rfl
@[simp] theorem State.setHl_intData (s : State) (v : Word) : (s.setHl v).intData = s.intData := rfl
@[simp] theorem State.setHl_resetLow (s : State) (v : Word) : (s.setHl v).resetLow = s.resetLow := rfl
@[simp] theorem State.setHl_schedule (s : State) (v : Word) : (s.setHl v).schedule = s.schedule := rfl
@[simp] theorem State.setHl_im2Indirect (s : State) (v : Word) : (s.setHl v).im2Indirect = s.im2Indirect := rfl
@[simp] theorem State.setHl_plat (s : State) (v : Word) : (s.setHl v).plat = s.plat := rfl
@[simp] theorem State.setHl_clock (s : State) (v : Word) : (s.setHl v).clock = s.clock := rfl

/-! `State.setAf`. -/

@[simp] theorem State.setAf_a (s : State) (v : Word) : (s.setAf v).a = hiByte v := rfl
@[simp] theorem State.setAf_f (s : State) (v : Word) : (s.setAf v).f = Flags.ofByte (loByte v) := rfl
@[simp] theorem State.setAf_b (s : State) (v : Word) : (s.setAf v).b = s.b := rfl
@[simp] theorem State.setAf_c (s : State) (v : Word) : (s.setAf v).c = s.c := rfl
@[simp] theorem State.setAf_d (s : State) (v : Word) : (s.setAf v).d = s.d := rfl
@[simp] theorem State.setAf_e (s : State) (v : Word) : (s.setAf v).e = s.e := rfl
@[simp] theorem State.setAf_h (s : State) (v : Word) : (s.setAf v).h = s.h := rfl
@[simp] theorem State.setAf_l (s : State) (v : Word) : (s.setAf v).l = s.l := rfl
@[simp] theorem State.setAf_altA (s : State) (v : Word) : (s.setAf v).altA = s.altA := rfl
@[simp] theorem State.setAf_altF (s : State) (v : Word) : (s.setAf v).altF = s.altF := rfl
@[simp] theorem State.setAf_altB (s : State) (v : Word) : (s.setAf v).altB = s.altB := rfl
@[simp] theorem State.setAf_altC (s : State) (v : Word) : (s.setAf v).altC = s.altC := rfl
@[simp] theorem State.setAf_altD (s : State) (v : Word) : (s.setAf v).altD = s.altD := rfl
@[simp] theorem State.setAf_altE (s : State) (v : Word) : (s.setAf v).altE = s.altE := rfl
@[simp] theorem State.setAf_altH (s : State) (v : Word) : (s.setAf v).altH = s.altH := rfl
@[simp] theorem State.setAf_altL (s : State) (v : Word) : (s.setAf v).altL = s.altL := rfl
@[simp] theorem State.setAf_ix (s : State) (v : Word) : (s.setAf v).ix = s.ix := rfl
@[simp] theorem State.setAf_iy (s : State) (v : Word) : (s.setAf v).iy = s.iy := rfl
@[simp] theorem State.setAf_sp (s : State) (v : Word) : (s.setAf v).sp = s.sp := rfl
@[simp] theorem State.setAf_pc (s : State) (v : Word) : (s.setAf v).pc = s.pc := rfl
@[simp] theorem State.setAf_i (s : State) (v : Word) : (s.setAf v).i = s.i := rfl
@[simp] theorem State.setAf_r (s : State) (v : Word) : (s.setAf v).r = s.r := rfl
@[simp] theorem State.setAf_iff1 (s : State) (v : Word) : (s.setAf v).iff1 = s.iff1 := rfl
@[simp] theorem State.setAf_iff2 (s : State) (v : Word) : (s.setAf v).iff2 = s.iff2 := rfl
@[simp] theorem State.setAf_im (s : State) (v : Word) : (s.setAf v).im = s.im := rfl
@[simp] theorem State.setAf_halted (s : State) (v : Word) : (s.setAf v).halted = s.halted := rfl
@[simp] theorem State.setAf_eiShadow (s : State) (v : Word) : (s.setAf v).eiShadow = s.eiShadow := rfl
@[simp] theorem State.setAf_nmiPending (s : State) (v : Word) : (s.setAf v).nmiPending = s.nmiPending := rfl
@[simp] theorem State.setAf_iffRead (s : State) (v : Word) : (s.setAf v).iffRead = s.iffRead := rfl
@[simp] theorem State.setAf_intLow (s : State) (v : Word) : (s.setAf v).intLow = s.intLow := rfl
@[simp] theorem State.setAf_intData (s : State) (v : Word) : (s.setAf v).intData = s.intData := rfl
@[simp] theorem State.setAf_resetLow (s : State) (v : Word) : (s.setAf v).resetLow = s.resetLow := rfl
@[simp] theorem State.setAf_schedule (s : State) (v : Word) : (s.setAf v).schedule = s.schedule := rfl
@[simp] theorem State.setAf_im2Indirect (s : State) (v : Word) : (s.setAf v).im2Indirect = s.im2Indirect := rfl
@[simp] theorem State.setAf_plat (s : State) (v : Word) : (s.setAf v).plat = s.plat := rfl
@[simp] theorem State.setAf_clock (s : State) (v : Word) : (s.setAf v).clock = s.clock := rfl

/-! `State.afterRead`. -/

@[simp] theorem State.afterRead_a (s : State) (x : Word) : (s.afterRead x).a = s.a := rfl
@[simp] theorem State.afterRead_f (s : State) (x : Word) : (s.afterRead x).f = s.f := rfl
@[simp] theorem State.afterRead_b (s : State) (x : Word) : (s.afterRead x).b = s.b := rfl
@[simp] theorem State.afterRead_c (s : State) (x : Word) : (s.afterRead x).c = s.c := rfl
@[simp] theorem State.afterRead_d (s : State) (x : Word) : (s.afterRead x).d = s.d := rfl
@[simp] theorem State.afterRead_e (s : State) (x : Word) : (s.afterRead x).e = s.e := rfl
@[simp] theorem State.afterRead_h (s : State) (x : Word) : (s.afterRead x).h = s.h := rfl
@[simp] theorem State.afterRead_l (s : State) (x : Word) : (s.afterRead x).l = s.l := rfl
@[simp] theorem State.afterRead_altA (s : State) (x : Word) : (s.afterRead x).altA = s.altA := rfl
@[simp] theorem State.afterRead_altF (s : State) (x : Word) : (s.afterRead x).altF = s.altF := rfl
@[simp] theorem State.afterRead_altB (s : State) (x : Word) : (s.afterRead x).altB = s.altB := rfl
@[simp] theorem State.afterRead_altC (s : State) (x : Word) : (s.afterRead x).altC = s.altC := rfl
@[simp] theorem State.afterRead_altD (s : State) (x : Word) : (s.afterRead x).altD = s.altD := rfl
@[simp] theorem State.afterRead_altE (s : State) (x : Word) : (s.afterRead x).altE = s.altE := rfl
@[simp] theorem State.afterRead_altH (s : State) (x : Word) : (s.afterRead x).altH = s.altH := rfl
@[simp] theorem State.afterRead_altL (s : State) (x : Word) : (s.afterRead x).altL = s.altL := rfl
@[simp] theorem State.afterRead_ix (s : State) (x : Word) : (s.afterRead x).ix = s.ix := rfl
@[simp] theorem State.afterRead_iy (s : State) (x : Word) : (s.afterRead x).iy = s.iy := rfl
@[simp] theorem State.afterRead_sp (s : State) (x : Word) : (s.afterRead x).sp = s.sp := rfl
@[simp] theorem State.afterRead_pc (s : State) (x : Word) : (s.afterRead x).pc = s.pc := rfl
@[simp] theorem State.afterRead_i (s : State) (x : Word) : (s.afterRead x).i = s.i := rfl
@[simp] theorem State.afterRead_r (s : State) (x : Word) : (s.afterRead x).r = s.r := rfl
@[simp] theorem State.afterRead_iff1 (s : State) (x : Word) : (s.afterRead x).iff1 = s.iff1 := rfl
@[simp] theorem State.afterRead_iff2 (s : State) (x : Word) : (s.afterRead x).iff2 = s.iff2 := rfl
@[simp] theorem State.afterRead_im (s : State) (x : Word) : (s.afterRead x).im = s.im := rfl
@[simp] theorem State.afterRead_halted (s : State) (x : Word) : (s.afterRead x).halted = s.halted := rfl
@[simp] theorem State.afterRead_eiShadow (s : State) (x : Word) : (s.afterRead x).eiShadow = s.eiShadow := rfl
@[simp] theorem State.afterRead_nmiPending (s : State) (x : Word) : (s.afterRead x).nmiPending = s.nmiPending := rfl
@[simp] theorem State.afterRead_iffRead (s : State) (x : Word) : (s.afterRead x).iffRead = s.iffRead := rfl
@[simp] theorem State.afterRead_intLow (s : State) (x : Word) : (s.afterRead x).intLow = s.intLow := rfl
@[simp] theorem State.afterRead_intData (s : State) (x : Word) : (s.afterRead x).intData = s.intData := rfl
@[simp] theorem State.afterRead_resetLow (s : State) (x : Word) : (s.afterRead x).resetLow = s.resetLow := rfl
@[simp] theorem State.afterRead_schedule (s : State) (x : Word) : (s.afterRead x).schedule = s.schedule := rfl
@[simp] theorem State.afterRead_im2Indirect (s : State) (x : Word) : (s.afterRead x).im2Indirect = s.im2Indirect := rfl
@[simp] theorem State.afterRead_plat (s : State) (x : Word) : (s.afterRead x).plat = (s.plat.readCycle x).endCycle := rfl
@[simp] theorem State.afterRead_clock (s : State) (x : Word) : (s.afterRead x).clock = s.clock := rfl

/-! `State.write`. -/

@[simp] theorem State.write_a (s : State) (x : Word) (v : Byte) : (s.write x v).a = s.a := rfl
@[simp] theorem State.write_f (s : State) (x : Word) (v : Byte) : (s.write x v).f = s.f := rfl
@[simp] theorem State.write_b (s : State) (x : Word) (v : Byte) : (s.write x v).b = s.b := rfl
@[simp] theorem State.write_c (s : State) (x : Word) (v : Byte) : (s.write x v).c = s.c := rfl
@[simp] theorem State.write_d (s : State) (x : Word) (v : Byte) : (s.write x v).d = s.d := rfl
@[simp] theorem State.write_e (s : State) (x : Word) (v : Byte) : (s.write x v).e = s.e := rfl
@[simp] theorem State.write_h (s : State) (x : Word) (v : Byte) : (s.write x v).h = s.h := rfl
@[simp] theorem State.write_l (s : State) (x : Word) (v : Byte) : (s.write x v).l = s.l := rfl
@[simp] theorem State.write_altA (s : State) (x : Word) (v : Byte) : (s.write x v).altA = s.altA := rfl
@[simp] theorem State.write_altF (s : State) (x : Word) (v : Byte) : (s.write x v).altF = s.altF := rfl
@[simp] theorem State.write_altB (s : State) (x : Word) (v : Byte) : (s.write x v).altB = s.altB := rfl
@[simp] theorem State.write_altC (s : State) (x : Word) (v : Byte) : (s.write x v).altC = s.altC := rfl
@[simp] theorem State.write_altD (s : State) (x : Word) (v : Byte) : (s.write x v).altD = s.altD := rfl
@[simp] theorem State.write_altE (s : State) (x : Word) (v : Byte) : (s.write x v).altE = s.altE := rfl
@[simp] theorem State.write_altH (s : State) (x : Word) (v : Byte) : (s.write x v).altH = s.altH := rfl
@[simp] theorem State.write_altL (s : State) (x : Word) (v : Byte) : (s.write x v).altL = s.altL := rfl
@[simp] theorem State.write_ix (s : State) (x : Word) (v : Byte) : (s.write x v).ix = s.ix := rfl
@[simp] theorem State.write_iy (s : State) (x : Word) (v : Byte) : (s.write x v).iy = s.iy := rfl
@[simp] theorem State.write_sp (s : State) (x : Word) (v : Byte) : (s.write x v).sp = s.sp := rfl
@[simp] theorem State.write_pc (s : State) (x : Word) (v : Byte) : (s.write x v).pc = s.pc := rfl
@[simp] theorem State.write_i (s : State) (x : Word) (v : Byte) : (s.write x v).i = s.i := rfl
@[simp] theorem State.write_r (s : State) (x : Word) (v : Byte) : (s.write x v).r = s.r := rfl
@[simp] theorem State.write_iff1 (s : State) (x : Word) (v : Byte) : (s.write x v).iff1 = s.iff1 := rfl
@[simp] theorem State.write_iff2 (s : State) (x : Word) (v : Byte) : (s.write x v).iff2 = s.iff2 := rfl
@[simp] theorem State.write_im (s : State) (x : Word) (v : Byte) : (s.write x v).im = s.im := rfl
@[simp] theorem State.write_halted (s : State) (x : Word) (v : Byte) : (s.write x v).halted = s.halted := rfl
@[simp] theorem State.write_eiShadow (s : State) (x : Word) (v : Byte) : (s.write x v).eiShadow = s.eiShadow := rfl
@[simp] theorem State.write_nmiPending (s : State) (x : Word) (v : Byte) : (s.write x v).nmiPending = s.nmiPending := rfl
@[simp] theorem State.write_iffRead (s : State) (x : Word) (v : Byte) : (s.write x v).iffRead = s.iffRead := rfl
@[simp] theorem State.write_intLow (s : State) (x : Word) (v : Byte) : (s.write x v).intLow = s.intLow := rfl
@[simp] theorem State.write_intData (s : State) (x : Word) (v : Byte) : (s.write x v).intData = s.intData := rfl
@[simp] theorem State.write_resetLow (s : State) (x : Word) (v : Byte) : (s.write x v).resetLow = s.resetLow := rfl
@[simp] theorem State.write_schedule (s : State) (x : Word) (v : Byte) : (s.write x v).schedule = s.schedule := rfl
@[simp] theorem State.write_im2Indirect (s : State) (x : Word) (v : Byte) : (s.write x v).im2Indirect = s.im2Indirect := rfl
@[simp] theorem State.write_plat (s : State) (x : Word) (v : Byte) : (s.write x v).plat = (s.plat.writeCycle x v).endCycle := rfl
@[simp] theorem State.write_clock (s : State) (x : Word) (v : Byte) : (s.write x v).clock = s.clock := rfl

/-! `State.afterInput`. -/

@[simp] theorem State.afterInput_a (s : State) (x : Word) : (s.afterInput x).a = s.a := rfl
@[simp] theorem State.afterInput_f (s : State) (x : Word) : (s.afterInput x).f = s.f := rfl
@[simp] theorem State.afterInput_b (s : State) (x : Word) : (s.afterInput x).b = s.b := rfl
@[simp] theorem State.afterInput_c (s : State) (x : Word) : (s.afterInput x).c = s.c := rfl
@[simp] theorem State.afterInput_d (s : State) (x : Word) : (s.afterInput x).d = s.d := rfl
@[simp] theorem State.afterInput_e (s : State) (x : Word) : (s.afterInput x).e = s.e := rfl
@[simp] theorem State.afterInput_h (s : State) (x : Word) : (s.afterInput x).h = s.h := rfl
@[simp] theorem State.afterInput_l (s : State) (x : Word) : (s.afterInput x).l = s.l := rfl
@[simp] theorem State.afterInput_altA (s : State) (x : Word) : (s.afterInput x).altA = s.altA := rfl
@[simp] theorem State.afterInput_altF (s : State) (x : Word) : (s.afterInput x).altF = s.altF := rfl
@[simp] theorem State.afterInput_altB (s : State) (x : Word) : (s.afterInput x).altB = s.altB := rfl
@[simp] theorem State.afterInput_altC (s : State) (x : Word) : (s.afterInput x).altC = s.altC := rfl
@[simp] theorem State.afterInput_altD (s : State) (x : Word) : (s.afterInput x).altD = s.altD := rfl
@[simp] theorem State.afterInput_altE (s : State) (x : Word) : (s.afterInput x).altE = s.altE := rfl
@[simp] theorem State.afterInput_altH (s : State) (x : Word) : (s.afterInput x).altH = s.altH := rfl
@[simp] theorem State.afterInput_altL (s : State) (x : Word) : (s.afterInput x).altL = s.altL := rfl
@[simp] theorem State.afterInput_ix (s : State) (x : Word) : (s.afterInput x).ix = s.ix := rfl
@[simp] theorem State.afterInput_iy (s : State) (x : Word) : (s.afterInput x).iy = s.iy := rfl
@[simp] theorem State.afterInput_sp (s : State) (x : Word) : (s.afterInput x).sp = s.sp := rfl
@[simp] theorem State.afterInput_pc (s : State) (x : Word) : (s.afterInput x).pc = s.pc := rfl
@[simp] theorem State.afterInput_i (s : State) (x : Word) : (s.afterInput x).i = s.i := rfl
@[simp] theorem State.afterInput_r (s : State) (x : Word) : (s.afterInput x).r = s.r := rfl
@[simp] theorem State.afterInput_iff1 (s : State) (x : Word) : (s.afterInput x).iff1 = s.iff1 := rfl
@[simp] theorem State.afterInput_iff2 (s : State) (x : Word) : (s.afterInput x).iff2 = s.iff2 := rfl
@[simp] theorem State.afterInput_im (s : State) (x : Word) : (s.afterInput x).im = s.im := rfl
@[simp] theorem State.afterInput_halted (s : State) (x : Word) : (s.afterInput x).halted = s.halted := rfl
@[simp] theorem State.afterInput_eiShadow (s : State) (x : Word) : (s.afterInput x).eiShadow = s.eiShadow := rfl
@[simp] theorem State.afterInput_nmiPending (s : State) (x : Word) : (s.afterInput x).nmiPending = s.nmiPending := rfl
@[simp] theorem State.afterInput_iffRead (s : State) (x : Word) : (s.afterInput x).iffRead = s.iffRead := rfl
@[simp] theorem State.afterInput_intLow (s : State) (x : Word) : (s.afterInput x).intLow = s.intLow := rfl
@[simp] theorem State.afterInput_intData (s : State) (x : Word) : (s.afterInput x).intData = s.intData := rfl
@[simp] theorem State.afterInput_resetLow (s : State) (x : Word) : (s.afterInput x).resetLow = s.resetLow := rfl
@[simp] theorem State.afterInput_schedule (s : State) (x : Word) : (s.afterInput x).schedule = s.schedule := rfl
@[simp] theorem State.afterInput_im2Indirect (s : State) (x : Word) : (s.afterInput x).im2Indirect = s.im2Indirect := rfl
@[simp] theorem State.afterInput_plat (s : State) (x : Word) : (s.afterInput x).plat = (s.plat.inCycle x).endCycle := rfl
@[simp] theorem State.afterInput_clock (s : State) (x : Word) : (s.afterInput x).clock = s.clock := rfl

/-! `State.output`. -/

@[simp] theorem State.output_a (s : State) (x : Word) (v : Byte) : (s.output x v).a = s.a := rfl
@[simp] theorem State.output_f (s : State) (x : Word) (v : Byte) : (s.output x v).f = s.f := rfl
@[simp] theorem State.output_b (s : State) (x : Word) (v : Byte) : (s.output x v).b = s.b := rfl
@[simp] theorem State.output_c (s : State) (x : Word) (v : Byte) : (s.output x v).c = s.c := rfl
@[simp] theorem State.output_d (s : State) (x : Word) (v : Byte) : (s.output x v).d = s.d := rfl
@[simp] theorem State.output_e (s : State) (x : Word) (v : Byte) : (s.output x v).e = s.e := rfl
@[simp] theorem State.output_h (s : State) (x : Word) (v : Byte) : (s.output x v).h = s.h := rfl
@[simp] theorem State.output_l (s : State) (x : Word) (v : Byte) : (s.output x v).l = s.l := rfl
@[simp] theorem State.output_altA (s : State) (x : Word) (v : Byte) : (s.output x v).altA = s.altA := rfl
@[simp] theorem State.output_altF (s : State) (x : Word) (v : Byte) : (s.output x v).altF = s.altF := rfl
@[simp] theorem State.output_altB (s : State) (x : Word) (v : Byte) : (s.output x v).altB = s.altB := rfl
@[simp] theorem State.output_altC (s : State) (x : Word) (v : Byte) : (s.output x v).altC = s.altC := rfl
@[simp] theorem State.output_altD (s : State) (x : Word) (v : Byte) : (s.output x v).altD = s.altD := rfl
@[simp] theorem State.output_altE (s : State) (x : Word) (v : Byte) : (s.output x v).altE = s.altE := rfl
@[simp] theorem State.output_altH (s : State) (x : Word) (v : Byte) : (s.output x v).altH = s.altH := rfl
@[simp] theorem State.output_altL (s : State) (x : Word) (v : Byte) : (s.output x v).altL = s.altL := rfl
@[simp] theorem State.output_ix (s : State) (x : Word) (v : Byte) : (s.output x v).ix = s.ix := rfl
@[simp] theorem State.output_iy (s : State) (x : Word) (v : Byte) : (s.output x v).iy = s.iy := rfl
@[simp] theorem State.output_sp (s : State) (x : Word) (v : Byte) : (s.output x v).sp = s.sp := rfl
@[simp] theorem State.output_pc (s : State) (x : Word) (v : Byte) : (s.output x v).pc = s.pc := rfl
@[simp] theorem State.output_i (s : State) (x : Word) (v : Byte) : (s.output x v).i = s.i := rfl
@[simp] theorem State.output_r (s : State) (x : Word) (v : Byte) : (s.output x v).r = s.r := rfl
@[simp] theorem State.output_iff1 (s : State) (x : Word) (v : Byte) : (s.output x v).iff1 = s.iff1 := rfl
@[simp] theorem State.output_iff2 (s : State) (x : Word) (v : Byte) : (s.output x v).iff2 = s.iff2 := rfl
@[simp] theorem State.output_im (s : State) (x : Word) (v : Byte) : (s.output x v).im = s.im := rfl
@[simp] theorem State.output_halted (s : State) (x : Word) (v : Byte) : (s.output x v).halted = s.halted := rfl
@[simp] theorem State.output_eiShadow (s : State) (x : Word) (v : Byte) : (s.output x v).eiShadow = s.eiShadow := rfl
@[simp] theorem State.output_nmiPending (s : State) (x : Word) (v : Byte) : (s.output x v).nmiPending = s.nmiPending := rfl
@[simp] theorem State.output_iffRead (s : State) (x : Word) (v : Byte) : (s.output x v).iffRead = s.iffRead := rfl
@[simp] theorem State.output_intLow (s : State) (x : Word) (v : Byte) : (s.output x v).intLow = s.intLow := rfl
@[simp] theorem State.output_intData (s : State) (x : Word) (v : Byte) : (s.output x v).intData = s.intData := rfl
@[simp] theorem State.output_resetLow (s : State) (x : Word) (v : Byte) : (s.output x v).resetLow = s.resetLow := rfl
@[simp] theorem State.output_schedule (s : State) (x : Word) (v : Byte) : (s.output x v).schedule = s.schedule := rfl
@[simp] theorem State.output_im2Indirect (s : State) (x : Word) (v : Byte) : (s.output x v).im2Indirect = s.im2Indirect := rfl
@[simp] theorem State.output_plat (s : State) (x : Word) (v : Byte) : (s.output x v).plat = (s.plat.outCycle x v).endCycle := rfl
@[simp] theorem State.output_clock (s : State) (x : Word) (v : Byte) : (s.output x v).clock = s.clock := rfl

/-! `State.pushByte`. -/

@[simp] theorem State.pushByte_a (s : State) (v : Byte) : (s.pushByte v).a = s.a := rfl
@[simp] theorem State.pushByte_f (s : State) (v : Byte) : (s.pushByte v).f = s.f := rfl
@[simp] theorem State.pushByte_b (s : State) (v : Byte) : (s.pushByte v).b = s.b := rfl
@[simp] theorem State.pushByte_c (s : State) (v : Byte) : (s.pushByte v).c = s.c := rfl
@[simp] theorem State.pushByte_d (s : State) (v : Byte) : (s.pushByte v).d = s.d := rfl
@[simp] theorem State.pushByte_e (s : State) (v : Byte) : (s.pushByte v).e = s.e := rfl
@[simp] theorem State.pushByte_h (s : State) (v : Byte) : (s.pushByte v).h = s.h := rfl
@[simp] theorem State.pushByte_l (s : State) (v : Byte) : (s.pushByte v).l = s.l := rfl
@[simp] theorem State.pushByte_altA (s : State) (v : Byte) : (s.pushByte v).altA = s.altA := rfl
@[simp] theorem State.pushByte_altF (s : State) (v : Byte) : (s.pushByte v).altF = s.altF := rfl
@[simp] theorem State.pushByte_altB (s : State) (v : Byte) : (s.pushByte v).altB = s.altB := rfl
@[simp] theorem State.pushByte_altC (s : State) (v : Byte) : (s.pushByte v).altC = s.altC := rfl
@[simp] theorem State.pushByte_altD (s : State) (v : Byte) : (s.pushByte v).altD = s.altD := rfl
@[simp] theorem State.pushByte_altE (s : State) (v : Byte) : (s.pushByte v).altE = s.altE := rfl
@[simp] theorem State.pushByte_altH (s : State) (v : Byte) : (s.pushByte v).altH = s.altH := rfl
@[simp] theorem State.pushByte_altL (s : State) (v : Byte) : (s.pushByte v).altL = s.altL := rfl
@[simp] theorem State.pushByte_ix (s : State) (v : Byte) : (s.pushByte v).ix = s.ix := rfl
@[simp] theorem State.pushByte_iy (s : State) (v : Byte) : (s.pushByte v).iy = s.iy := rfl
@[simp] theorem State.pushByte_sp (s : State) (v : Byte) : (s.pushByte v).sp = s.sp - 1 := rfl
@[simp] theorem State.pushByte_pc (s : State) (v : Byte) : (s.pushByte v).pc = s.pc := rfl
@[simp] theorem State.pushByte_i (s : State) (v : Byte) : (s.pushByte v).i = s.i := rfl
@[simp] theorem State.pushByte_r (s : State) (v : Byte) : (s.pushByte v).r = s.r := rfl
@[simp] theorem State.pushByte_iff1 (s : State) (v : Byte) : (s.pushByte v).iff1 = s.iff1 := rfl
@[simp] theorem State.pushByte_iff2 (s : State) (v : Byte) : (s.pushByte v).iff2 = s.iff2 := rfl
@[simp] theorem State.pushByte_im (s : State) (v : Byte) : (s.pushByte v).im = s.im := rfl
@[simp] theorem State.pushByte_halted (s : State) (v : Byte) : (s.pushByte v).halted = s.halted := rfl
@[simp] theorem State.pushByte_eiShadow (s : State) (v : Byte) : (s.pushByte v).eiShadow = s.eiShadow := rfl
@[simp] theorem State.pushByte_nmiPending (s : State) (v : Byte) : (s.pushByte v).nmiPending = s.nmiPending := rfl
@[simp] theorem State.pushByte_iffRead (s : State) (v : Byte) : (s.pushByte v).iffRead = s.iffRead := rfl
@[simp] theorem State.pushByte_intLow (s : State) (v : Byte) : (s.pushByte v).intLow = s.intLow := rfl
@[simp] theorem State.pushByte_intData (s : State) (v : Byte) : (s.pushByte v).intData = s.intData := rfl
@[simp] theorem State.pushByte_resetLow (s : State) (v : Byte) : (s.pushByte v).resetLow = s.resetLow := rfl
@[simp] theorem State.pushByte_schedule (s : State) (v : Byte) : (s.pushByte v).schedule = s.schedule := rfl
@[simp] theorem State.pushByte_im2Indirect (s : State) (v : Byte) : (s.pushByte v).im2Indirect = s.im2Indirect := rfl
@[simp] theorem State.pushByte_plat (s : State) (v : Byte) : (s.pushByte v).plat = (s.plat.writeCycle (s.sp - 1) v).endCycle := rfl
@[simp] theorem State.pushByte_clock (s : State) (v : Byte) : (s.pushByte v).clock = s.clock := rfl

/-! `State.afterPopByte`. -/

@[simp] theorem State.afterPopByte_a (s : State) : (s.afterPopByte).a = s.a := rfl
@[simp] theorem State.afterPopByte_f (s : State) : (s.afterPopByte).f = s.f := rfl
@[simp] theorem State.afterPopByte_b (s : State) : (s.afterPopByte).b = s.b := rfl
@[simp] theorem State.afterPopByte_c (s : State) : (s.afterPopByte).c = s.c := rfl
@[simp] theorem State.afterPopByte_d (s : State) : (s.afterPopByte).d = s.d := rfl
@[simp] theorem State.afterPopByte_e (s : State) : (s.afterPopByte).e = s.e := rfl
@[simp] theorem State.afterPopByte_h (s : State) : (s.afterPopByte).h = s.h := rfl
@[simp] theorem State.afterPopByte_l (s : State) : (s.afterPopByte).l = s.l := rfl
@[simp] theorem State.afterPopByte_altA (s : State) : (s.afterPopByte).altA = s.altA := rfl
@[simp] theorem State.afterPopByte_altF (s : State) : (s.afterPopByte).altF = s.altF := rfl
@[simp] theorem State.afterPopByte_altB (s : State) : (s.afterPopByte).altB = s.altB := rfl
@[simp] theorem State.afterPopByte_altC (s : State) : (s.afterPopByte).altC = s.altC := rfl
@[simp] theorem State.afterPopByte_altD (s : State) : (s.afterPopByte).altD = s.altD := rfl
@[simp] theorem State.afterPopByte_altE (s : State) : (s.afterPopByte).altE = s.altE := rfl
@[simp] theorem State.afterPopByte_altH (s : State) : (s.afterPopByte).altH = s.altH := rfl
@[simp] theorem State.afterPopByte_altL (s : State) : (s.afterPopByte).altL = s.altL := rfl
@[simp] theorem State.afterPopByte_ix (s : State) : (s.afterPopByte).ix = s.ix := rfl
@[simp] theorem State.afterPopByte_iy (s : State) : (s.afterPopByte).iy = s.iy := rfl
@[simp] theorem State.afterPopByte_sp (s : State) : (s.afterPopByte).sp = s.sp + 1 := rfl
@[simp] theorem State.afterPopByte_pc (s : State) : (s.afterPopByte).pc = s.pc := rfl
@[simp] theorem State.afterPopByte_i (s : State) : (s.afterPopByte).i = s.i := rfl
@[simp] theorem State.afterPopByte_r (s : State) : (s.afterPopByte).r = s.r := rfl
@[simp] theorem State.afterPopByte_iff1 (s : State) : (s.afterPopByte).iff1 = s.iff1 := rfl
@[simp] theorem State.afterPopByte_iff2 (s : State) : (s.afterPopByte).iff2 = s.iff2 := rfl
@[simp] theorem State.afterPopByte_im (s : State) : (s.afterPopByte).im = s.im := rfl
@[simp] theorem State.afterPopByte_halted (s : State) : (s.afterPopByte).halted = s.halted := rfl
@[simp] theorem State.afterPopByte_eiShadow (s : State) : (s.afterPopByte).eiShadow = s.eiShadow := rfl
@[simp] theorem State.afterPopByte_nmiPending (s : State) : (s.afterPopByte).nmiPending = s.nmiPending := rfl
@[simp] theorem State.afterPopByte_iffRead (s : State) : (s.afterPopByte).iffRead = s.iffRead := rfl
@[simp] theorem State.afterPopByte_intLow (s : State) : (s.afterPopByte).intLow = s.intLow := rfl
@[simp] theorem State.afterPopByte_intData (s : State) : (s.afterPopByte).intData = s.intData := rfl
@[simp] theorem State.afterPopByte_resetLow (s : State) : (s.afterPopByte).resetLow = s.resetLow := rfl
@[simp] theorem State.afterPopByte_schedule (s : State) : (s.afterPopByte).schedule = s.schedule := rfl
@[simp] theorem State.afterPopByte_im2Indirect (s : State) : (s.afterPopByte).im2Indirect = s.im2Indirect := rfl
@[simp] theorem State.afterPopByte_plat (s : State) : (s.afterPopByte).plat = (s.plat.readCycle s.sp).endCycle := rfl
@[simp] theorem State.afterPopByte_clock (s : State) : (s.afterPopByte).clock = s.clock := rfl

/-! `State.beginInstr`. -/

@[simp] theorem State.beginInstr_a (s : State) : (s.beginInstr).a = s.a := rfl
@[simp] theorem State.beginInstr_f (s : State) : (s.beginInstr).f = s.f := rfl
@[simp] theorem State.beginInstr_b (s : State) : (s.beginInstr).b = s.b := rfl
@[simp] theorem State.beginInstr_c (s : State) : (s.beginInstr).c = s.c := rfl
@[simp] theorem State.beginInstr_d (s : State) : (s.beginInstr).d = s.d := rfl
@[simp] theorem State.beginInstr_e (s : State) : (s.beginInstr).e = s.e := rfl
@[simp] theorem State.beginInstr_h (s : State) : (s.beginInstr).h = s.h := rfl
@[simp] theorem State.beginInstr_l (s : State) : (s.beginInstr).l = s.l := rfl
@[simp] theorem State.beginInstr_altA (s : State) : (s.beginInstr).altA = s.altA := rfl
@[simp] theorem State.beginInstr_altF (s : State) : (s.beginInstr).altF = s.altF := rfl
@[simp] theorem State.beginInstr_altB (s : State) : (s.beginInstr).altB = s.altB := rfl
@[simp] theorem State.beginInstr_altC (s : State) : (s.beginInstr).altC = s.altC := rfl
@[simp] theorem State.beginInstr_altD (s : State) : (s.beginInstr).altD = s.altD := rfl
@[simp] theorem State.beginInstr_altE (s : State) : (s.beginInstr).altE = s.altE := rfl
@[simp] theorem State.beginInstr_altH (s : State) : (s.beginInstr).altH = s.altH := rfl
@[simp] theorem State.beginInstr_altL (s : State) : (s.beginInstr).altL = s.altL := rfl
@[simp] theorem State.beginInstr_ix (s : State) : (s.beginInstr).ix = s.ix := rfl
@[simp] theorem State.beginInstr_iy (s : State) : (s.beginInstr).iy = s.iy := rfl
@[simp] theorem State.beginInstr_sp (s : State) : (s.beginInstr).sp = s.sp := rfl
@[simp] theorem State.beginInstr_pc (s : State) : (s.beginInstr).pc = s.pc := rfl
@[simp] theorem State.beginInstr_i (s : State) : (s.beginInstr).i = s.i := rfl
@[simp] theorem State.beginInstr_r (s : State) : (s.beginInstr).r = s.r := rfl
@[simp] theorem State.beginInstr_iff1 (s : State) : (s.beginInstr).iff1 = s.iff1 := rfl
@[simp] theorem State.beginInstr_iff2 (s : State) : (s.beginInstr).iff2 = s.iff2 := rfl
@[simp] theorem State.beginInstr_im (s : State) : (s.beginInstr).im = s.im := rfl
@[simp] theorem State.beginInstr_halted (s : State) : (s.beginInstr).halted = s.halted := rfl
@[simp] theorem State.beginInstr_eiShadow (s : State) : (s.beginInstr).eiShadow = false := rfl
@[simp] theorem State.beginInstr_nmiPending (s : State) : (s.beginInstr).nmiPending = s.nmiPending := rfl
@[simp] theorem State.beginInstr_iffRead (s : State) : (s.beginInstr).iffRead = false := rfl
@[simp] theorem State.beginInstr_intLow (s : State) : (s.beginInstr).intLow = s.intLow := rfl
@[simp] theorem State.beginInstr_intData (s : State) : (s.beginInstr).intData = s.intData := rfl
@[simp] theorem State.beginInstr_resetLow (s : State) : (s.beginInstr).resetLow = s.resetLow := rfl
@[simp] theorem State.beginInstr_schedule (s : State) : (s.beginInstr).schedule = s.schedule := rfl
@[simp] theorem State.beginInstr_im2Indirect (s : State) : (s.beginInstr).im2Indirect = s.im2Indirect := rfl
@[simp] theorem State.beginInstr_plat (s : State) : (s.beginInstr).plat = s.plat := rfl
@[simp] theorem State.beginInstr_clock (s : State) : (s.beginInstr).clock = s.clock := rfl

/-! `State.tick`. -/

@[simp] theorem State.tick_a (s : State) (t : Nat) : (s.tick t).a = s.a := rfl
@[simp] theorem State.tick_f (s : State) (t : Nat) : (s.tick t).f = s.f := rfl
@[simp] theorem State.tick_b (s : State) (t : Nat) : (s.tick t).b = s.b := rfl
@[simp] theorem State.tick_c (s : State) (t : Nat) : (s.tick t).c = s.c := rfl
@[simp] theorem State.tick_d (s : State) (t : Nat) : (s.tick t).d = s.d := rfl
@[simp] theorem State.tick_e (s : State) (t : Nat) : (s.tick t).e = s.e := rfl
@[simp] theorem State.tick_h (s : State) (t : Nat) : (s.tick t).h = s.h := rfl
@[simp] theorem State.tick_l (s : State) (t : Nat) : (s.tick t).l = s.l := rfl
@[simp] theorem State.tick_altA (s : State) (t : Nat) : (s.tick t).altA = s.altA := rfl
@[simp] theorem State.tick_altF (s : State) (t : Nat) : (s.tick t).altF = s.altF := rfl
@[simp] theorem State.tick_altB (s : State) (t : Nat) : (s.tick t).altB = s.altB := rfl
@[simp] theorem State.tick_altC (s : State) (t : Nat) : (s.tick t).altC = s.altC := rfl
@[simp] theorem State.tick_altD (s : State) (t : Nat) : (s.tick t).altD = s.altD := rfl
@[simp] theorem State.tick_altE (s : State) (t : Nat) : (s.tick t).altE = s.altE := rfl
@[simp] theorem State.tick_altH (s : State) (t : Nat) : (s.tick t).altH = s.altH := rfl
@[simp] theorem State.tick_altL (s : State) (t : Nat) : (s.tick t).altL = s.altL := rfl
@[simp] theorem State.tick_ix (s : State) (t : Nat) : (s.tick t).ix = s.ix := rfl
@[simp] theorem State.tick_iy (s : State) (t : Nat) : (s.tick t).iy = s.iy := rfl
@[simp] theorem State.tick_sp (s : State) (t : Nat) : (s.tick t).sp = s.sp := rfl
@[simp] theorem State.tick_pc (s : State) (t : Nat) : (s.tick t).pc = s.pc := rfl
@[simp] theorem State.tick_i (s : State) (t : Nat) : (s.tick t).i = s.i := rfl
@[simp] theorem State.tick_r (s : State) (t : Nat) : (s.tick t).r = s.r := rfl
@[simp] theorem State.tick_iff1 (s : State) (t : Nat) : (s.tick t).iff1 = s.iff1 := rfl
@[simp] theorem State.tick_iff2 (s : State) (t : Nat) : (s.tick t).iff2 = s.iff2 := rfl
@[simp] theorem State.tick_im (s : State) (t : Nat) : (s.tick t).im = s.im := rfl
@[simp] theorem State.tick_halted (s : State) (t : Nat) : (s.tick t).halted = s.halted := rfl
@[simp] theorem State.tick_eiShadow (s : State) (t : Nat) : (s.tick t).eiShadow = s.eiShadow := rfl
@[simp] theorem State.tick_nmiPending (s : State) (t : Nat) : (s.tick t).nmiPending = s.nmiPending := rfl
@[simp] theorem State.tick_iffRead (s : State) (t : Nat) : (s.tick t).iffRead = s.iffRead := rfl
@[simp] theorem State.tick_intLow (s : State) (t : Nat) : (s.tick t).intLow = s.intLow := rfl
@[simp] theorem State.tick_intData (s : State) (t : Nat) : (s.tick t).intData = s.intData := rfl
@[simp] theorem State.tick_resetLow (s : State) (t : Nat) : (s.tick t).resetLow = s.resetLow := rfl
@[simp] theorem State.tick_schedule (s : State) (t : Nat) : (s.tick t).schedule = s.schedule := rfl
@[simp] theorem State.tick_im2Indirect (s : State) (t : Nat) : (s.tick t).im2Indirect = s.im2Indirect := rfl
@[simp] theorem State.tick_plat (s : State) (t : Nat) : (s.tick t).plat = s.plat := rfl
@[simp] theorem State.tick_clock (s : State) (t : Nat) : (s.tick t).clock = s.clock + t := rfl

end Sys2Proof.Machine
end

