-- ==== Sys2Proof/Laws/Memory.lean ====
section
/-! SUPPORT. The laws of memory: what is read after a write, and that every memory operation keeps the canonical form. -/

namespace Sys2Proof.Machine

/-- An erased address reads as an unlisted one. -/
theorem memRead_memErase_same (m : List Host.Cell) (a : Nat) : memRead (memErase m a) a = 0#8 := by
  induction m with
  | nil => rfl
  | cons x m ih =>
    obtain ⟨k, w⟩ := x
    by_cases hk : k = a
    · simp [memErase, hk, ih]
    · simp [memErase, memRead, hk, ih, Ne.symm hk]

/-- Erasing an address leaves every other one alone. -/
theorem memRead_memErase_ne (m : List Host.Cell) (a b : Nat) (hab : b ≠ a) :
    memRead (memErase m a) b = memRead m b := by
  induction m with
  | nil => rfl
  | cons x m ih =>
    obtain ⟨k, w⟩ := x
    by_cases hk : k = a
    · simp [memErase, memRead, hk, ih, hab]
    · simp [memErase, memRead, hk, ih]

/-- An inserted entry is read when nothing else is listed for its address. -/
theorem memRead_memInsert_same (m : List Host.Cell) (a : Nat) (v : Byte) :
    memRead (memInsert (memErase m a) a v) a = v := by
  induction m with
  | nil => simp [memErase, memInsert, memRead]
  | cons x m ih =>
    obtain ⟨k, w⟩ := x
    by_cases hk : k = a
    · simp [memErase, hk, ih]
    · by_cases hlt : a < k
      · simp [memErase, memInsert, memRead, hk, hlt]
      · simp [memErase, memInsert, memRead, hk, hlt, ih, Ne.symm hk]

/-- An inserted entry leaves every other address alone. -/
theorem memRead_memInsert_ne (m : List Host.Cell) (a b : Nat) (v : Byte) (hab : b ≠ a) :
    memRead (memInsert m a v) b = memRead m b := by
  induction m with
  | nil => simp [memInsert, memRead, hab]
  | cons x m ih =>
    obtain ⟨k, w⟩ := x
    by_cases hlt : a < k
    · simp [memInsert, memRead, hlt, hab]
    · simp [memInsert, memRead, hlt, ih]

/-- A read of the address just written gives the value written. -/
@[simp] theorem memRead_memWrite_same (m : List Host.Cell) (a : Nat) (v : Byte) :
    memRead (memWrite m a v) a = v := by
  unfold memWrite
  split
  · rename_i hv
    rw [memRead_memErase_same, hv]
  · exact memRead_memInsert_same m a v

/-- A read of another address is not changed by a write. -/
theorem memRead_memWrite_ne (m : List Host.Cell) (a b : Nat) (v : Byte) (hab : b ≠ a) :
    memRead (memWrite m a v) b = memRead m b := by
  unfold memWrite
  split
  · exact memRead_memErase_ne m a b hab
  · rw [memRead_memInsert_ne _ _ _ _ hab, memRead_memErase_ne _ _ _ hab]

/-- The canonical form from an address on is the canonical form from a lower one on. -/
theorem Memory.wfFrom_weaken (m : List Host.Cell) (lo lo' : Nat) (hle : lo' ≤ lo) (h : Memory.wfFrom lo m = true) :
    Memory.wfFrom lo' m = true := by
  cases m with
  | nil => rfl
  | cons x m =>
    obtain ⟨k, w⟩ := x
    simp only [Memory.wfFrom, Bool.and_eq_true, decide_eq_true_eq] at h ⊢
    exact ⟨⟨⟨by omega, h.1.1.2⟩, h.1.2⟩, h.2⟩

/-- Erasing keeps the canonical form. -/
theorem Memory.wfFrom_memErase (m : List Host.Cell) (a lo : Nat) (h : Memory.wfFrom lo m = true) :
    Memory.wfFrom lo (memErase m a) = true := by
  induction m generalizing lo with
  | nil => rfl
  | cons x m ih =>
    obtain ⟨k, w⟩ := x
    simp only [Memory.wfFrom, Bool.and_eq_true, decide_eq_true_eq] at h
    by_cases hk : k = a
    · simp only [memErase, hk, if_true]
      exact ih lo (Memory.wfFrom_weaken m (k + 1) lo (by omega) h.2)
    · simp [memErase, hk, Memory.wfFrom, h.1.1.1, h.1.1.2, h.1.2, ih (k + 1) h.2]

/-- Inserting an entry for an address not listed keeps the canonical form. -/
theorem Memory.wfFrom_memInsert (m : List Host.Cell) (a lo : Nat) (v : Byte) (ha : a < 65536) (hlo : lo ≤ a)
    (hv : v ≠ 0#8) (hm : ∀ x ∈ m, x.1 ≠ a) (h : Memory.wfFrom lo m = true) :
    Memory.wfFrom lo (memInsert m a v) = true := by
  induction m generalizing lo with
  | nil => simp [memInsert, Memory.wfFrom, ha, hlo, hv]
  | cons x m ih =>
    obtain ⟨k, w⟩ := x
    simp only [Memory.wfFrom, Bool.and_eq_true, decide_eq_true_eq] at h
    have hk : k ≠ a := hm (k, w) (by simp)
    by_cases hlt : a < k
    · have hk1 : a + 1 ≤ k := hlt
      simp [memInsert, hlt, Memory.wfFrom, ha, hlo, hv, hk1, h.1.1.2, h.1.2, h.2]
    · have hk1 : k + 1 ≤ a := by omega
      have hm' : ∀ x ∈ m, x.1 ≠ a := fun x hx => hm x (by simp [hx])
      simp [memInsert, hlt, Memory.wfFrom, h.1.1.1, h.1.1.2, h.1.2, ih (k + 1) hk1 hm' h.2]

/-- No entry for an erased address is left. -/
theorem memErase_not_listed (m : List Host.Cell) (a : Nat) : ∀ x ∈ memErase m a, x.1 ≠ a := by
  induction m with
  | nil => intro x hx; simp [memErase] at hx
  | cons y m ih =>
    obtain ⟨k, w⟩ := y
    intro x hx
    by_cases hk : k = a
    · simp only [memErase, hk, if_true] at hx
      exact ih x hx
    · simp only [memErase, hk, if_false, List.mem_cons] at hx
      rcases hx with rfl | hx
      · exact hk
      · exact ih x hx

/-- A write at an address of the machine keeps the canonical form. -/
theorem Memory.wf_memWrite (m : List Host.Cell) (a : Word) (v : Byte) (h : Memory.wf m = true) :
    Memory.wf (memWrite m a.toNat v) = true := by
  unfold memWrite
  split
  · exact Memory.wfFrom_memErase m a.toNat 0 h
  · rename_i hv
    exact Memory.wfFrom_memInsert _ _ _ _ a.isLt (Nat.zero_le _) hv (memErase_not_listed m a.toNat)
      (Memory.wfFrom_memErase m a.toNat 0 h)

/-- Memory after reset is canonical. -/
theorem Memory.wf_reset : Memory.wf State.reset.plat.mem = true := rfl

end Sys2Proof.Machine
end

