-- ==== Sys2Proof/Laws/Bus.lean ====
section
/-! SUPPORT. What each machine cycle can do, said once: values read, bytes stored, what stays, with and without another master. -/

namespace Sys2Proof.Machine

/-! One cycle of the platform. -/

@[simp] theorem Platform.readCycle_mem (p : Platform) (a : Word) : (p.readCycle a).mem = p.mem := by
  unfold Platform.readCycle; split <;> rfl

@[simp] theorem Platform.readCycle_memMap (p : Platform) (a : Word) : (p.readCycle a).memMap = p.memMap := by
  unfold Platform.readCycle; split <;> rfl

@[simp] theorem Platform.readCycle_grants (p : Platform) (a : Word) : (p.readCycle a).grants = p.grants := by
  unfold Platform.readCycle; split <;> rfl

@[simp] theorem Platform.writeCycle_memMap (p : Platform) (a : Word) (v : Byte) :
    (p.writeCycle a v).memMap = p.memMap := by
  unfold Platform.writeCycle; split <;> rfl

@[simp] theorem Platform.writeCycle_grants (p : Platform) (a : Word) (v : Byte) :
    (p.writeCycle a v).grants = p.grants := by
  unfold Platform.writeCycle; split <;> rfl

@[simp] theorem Platform.writeCycle_draws (p : Platform) (a : Word) (v : Byte) :
    (p.writeCycle a v).draws = p.draws := by
  unfold Platform.writeCycle; split <;> rfl

@[simp] theorem Platform.inCycle_mem (p : Platform) (a : Word) : (p.inCycle a).mem = p.mem := rfl
@[simp] theorem Platform.inCycle_memMap (p : Platform) (a : Word) : (p.inCycle a).memMap = p.memMap := rfl
@[simp] theorem Platform.inCycle_grants (p : Platform) (a : Word) : (p.inCycle a).grants = p.grants := rfl
@[simp] theorem Platform.outCycle_mem (p : Platform) (a : Word) (v : Byte) : (p.outCycle a v).mem = p.mem := rfl
@[simp] theorem Platform.outCycle_memMap (p : Platform) (a : Word) (v : Byte) :
    (p.outCycle a v).memMap = p.memMap := rfl
@[simp] theorem Platform.outCycle_grants (p : Platform) (a : Word) (v : Byte) :
    (p.outCycle a v).grants = p.grants := rfl
@[simp] theorem Platform.drawn_mem (p : Platform) : p.drawn.mem = p.mem := rfl
@[simp] theorem Platform.drawn_memMap (p : Platform) : p.drawn.memMap = p.memMap := rfl
@[simp] theorem Platform.drawn_grants (p : Platform) : p.drawn.grants = p.grants := rfl
@[simp] theorem Platform.drawn_busLog (p : Platform) : p.drawn.busLog = p.busLog := rfl
@[simp] theorem Platform.drawn_ioScript (p : Platform) : p.drawn.ioScript = p.ioScript := rfl

/-- Without another master the end of a machine cycle changes nothing (R88, D11). -/
theorem Platform.endCycle_quiet (p : Platform) (h : p.grants = []) : p.endCycle = p := by
  unfold Platform.endCycle; rw [h]

/-- The kind of an address depends on the map alone. -/
theorem Platform.kindAt_congr (p q : Platform) (a : Word) (h : p.memMap = q.memMap) : p.kindAt a = q.kindAt a := by
  unfold Platform.kindAt; rw [h]

/-- What one write cycle does to each byte (R73, R85). -/
theorem Platform.peek_writeCycle (p : Platform) (a x : Word) (v : Byte) :
    (p.writeCycle a v).peek x = if x = a ∧ p.kindAt a = .ram then v else p.peek x := by
  unfold Platform.writeCycle Platform.peek
  cases hk : p.kindAt a
  · by_cases hx : x = a
    · subst hx; simp
    · have hne : x.toNat ≠ a.toNat := fun h => hx (BitVec.eq_of_toNat_eq h)
      simp [hx, memRead_memWrite_ne _ _ _ _ hne]
  all_goals simp [Platform.logged]

/-- What a read of backed memory returns (R72). -/
theorem Platform.readVal_backed (p : Platform) (a : Word) (h : p.backed a = true) : p.readVal a = p.peek a := by
  unfold Platform.backed at h
  unfold Platform.readVal
  cases hk : p.kindAt a <;> simp_all

/-- A read of backed memory changes nothing outside the CPU (R86). -/
theorem Platform.readCycle_backed (p : Platform) (a : Word) (h : p.backed a = true) : p.readCycle a = p := by
  unfold Platform.backed at h
  unfold Platform.readCycle
  cases hk : p.kindAt a <;> simp_all

/-! Another master: whatever it does, memory keeps its form and the map stays. -/

/-- What every access of another master keeps (R88). -/
theorem Platform.masterAccess_keeps (p : Platform) (x : MasterAccess) :
    (p.masterAccess x).memMap = p.memMap ∧
    (Memory.wf p.mem = true → Memory.wf (p.masterAccess x).mem = true) := by
  cases x with
  | memRead a => simp [Platform.masterAccess]
  | memWrite a v =>
    refine ⟨by simp [Platform.masterAccess], ?_⟩
    intro h
    simp only [Platform.masterAccess, Platform.writeCycle]
    split
    · exact Memory.wf_memWrite _ _ _ h
    all_goals exact h
  | ioRead port => exact ⟨rfl, id⟩
  | ioWrite port v => exact ⟨rfl, id⟩

/-- What a run of accesses of another master keeps (R88). -/
theorem Platform.masterRun_keeps (g : List MasterAccess) (p : Platform) :
    (g.foldl Platform.masterAccess p).memMap = p.memMap ∧
    (Memory.wf p.mem = true → Memory.wf (g.foldl Platform.masterAccess p).mem = true) := by
  induction g generalizing p with
  | nil => exact ⟨rfl, id⟩
  | cons x g ih =>
    have h1 := Platform.masterAccess_keeps p x
    have h2 := ih (p.masterAccess x)
    exact ⟨h2.1.trans h1.1, fun h => h2.2 (h1.2 h)⟩

/-- The end of a machine cycle keeps the memory map (R88). -/
@[simp] theorem Platform.endCycle_memMap (p : Platform) : p.endCycle.memMap = p.memMap := by
  unfold Platform.endCycle
  split
  · rfl
  · exact (Platform.masterRun_keeps _ _).1

/-- The end of a machine cycle keeps the canonical form of memory (R88). -/
theorem Platform.wf_endCycle (p : Platform) (h : Memory.wf p.mem = true) : Memory.wf p.endCycle.mem = true := by
  unfold Platform.endCycle
  split
  · exact h
  · exact (Platform.masterRun_keeps _ _).2 h

/-- A write cycle keeps the canonical form of memory. -/
theorem Platform.wf_writeCycle (p : Platform) (a : Word) (v : Byte) (h : Memory.wf p.mem = true) :
    Memory.wf (p.writeCycle a v).mem = true := by
  unfold Platform.writeCycle
  split
  · exact Memory.wf_memWrite _ _ _ h
  all_goals exact h

/-! Machine cycles of the CPU without another master. -/

/-- A read cycle, nobody else on the bus: no byte of memory changes and nobody takes the bus. -/
theorem State.afterRead_quiet (s : State) (a : Word) (h : Quiet s) :
    Quiet (s.afterRead a) ∧ (s.afterRead a).plat.memMap = s.plat.memMap ∧ SameMem s (s.afterRead a) := by
  have hg : (s.plat.readCycle a).grants = [] := by simpa [Quiet] using h
  refine ⟨?_, ?_, ?_⟩
  · simp only [Quiet, State.afterRead_plat, Platform.endCycle_quiet _ hg, hg]
  · simp
  · intro x
    simp only [State.peek, State.afterRead_plat, Platform.endCycle_quiet _ hg, Platform.peek, Platform.readCycle_mem]

/-- A read cycle of backed memory, nobody else on the bus, changes nothing at all. -/
theorem State.afterRead_backed (s : State) (a : Word) (h : Quiet s) (hb : s.plat.backed a = true) : s.afterRead a = s := by
  simp only [State.afterRead, Platform.readCycle_backed _ _ hb, Platform.endCycle_quiet _ h]
  rfl

/-- A write cycle, nobody else on the bus: what stands at each address afterwards. -/
theorem State.write_quiet (s : State) (a : Word) (v : Byte) (h : Quiet s) :
    Quiet (s.write a v) ∧ (s.write a v).plat.memMap = s.plat.memMap ∧
    ∀ x, (s.write a v).peek x = if x = a ∧ s.plat.kindAt a = .ram then v else s.peek x := by
  have hg : (s.plat.writeCycle a v).grants = [] := by simpa [Quiet] using h
  refine ⟨?_, ?_, ?_⟩
  · simp only [Quiet, State.write_plat, Platform.endCycle_quiet _ hg, hg]
  · simp
  · intro x
    simp only [State.peek, State.write_plat, Platform.endCycle_quiet _ hg, Platform.peek_writeCycle]

/-- An input cycle, nobody else on the bus: no byte of memory changes. -/
theorem State.afterInput_quiet (s : State) (port : Word) (h : Quiet s) :
    Quiet (s.afterInput port) ∧ (s.afterInput port).plat.memMap = s.plat.memMap ∧ SameMem s (s.afterInput port) ∧
    (s.afterInput port).plat.busLog = s.plat.busLog ++ [.ioRead port (s.input port)] := by
  have hg : (s.plat.inCycle port).grants = [] := h
  refine ⟨?_, by simp, ?_, ?_⟩
  · simp only [Quiet, State.afterInput_plat, Platform.endCycle_quiet _ hg, hg]
  · intro x
    simp only [State.peek, State.afterInput_plat, Platform.endCycle_quiet _ hg, Platform.peek, Platform.inCycle_mem]
  · simp only [State.afterInput_plat, Platform.endCycle_quiet _ hg]
    rfl

/-- An output cycle, nobody else on the bus: no byte of memory changes, the event is recorded. -/
theorem State.output_quiet (s : State) (port : Word) (v : Byte) (h : Quiet s) :
    Quiet (s.output port v) ∧ (s.output port v).plat.memMap = s.plat.memMap ∧ SameMem s (s.output port v) ∧
    (s.output port v).plat.busLog = s.plat.busLog ++ [.ioWrite port v] := by
  have hg : (s.plat.outCycle port v).grants = [] := h
  refine ⟨?_, by simp, ?_, ?_⟩
  · simp only [Quiet, State.output_plat, Platform.endCycle_quiet _ hg, hg]
  · intro x
    simp only [State.peek, State.output_plat, Platform.endCycle_quiet _ hg, Platform.peek, Platform.outCycle_mem]
  · simp only [State.output_plat, Platform.endCycle_quiet _ hg]
    rfl

/-! The canonical form, whatever other masters do. -/

theorem State.wf_afterRead (s : State) (a : Word) (h : Memory.wf s.plat.mem = true) :
    Memory.wf (s.afterRead a).plat.mem = true :=
  Platform.wf_endCycle _ (by simpa using h)

theorem State.wf_write (s : State) (a : Word) (v : Byte) (h : Memory.wf s.plat.mem = true) :
    Memory.wf (s.write a v).plat.mem = true :=
  Platform.wf_endCycle _ (Platform.wf_writeCycle _ a v h)

theorem State.wf_afterInput (s : State) (port : Word) (h : Memory.wf s.plat.mem = true) :
    Memory.wf (s.afterInput port).plat.mem = true :=
  Platform.wf_endCycle _ (by simpa using h)

theorem State.wf_output (s : State) (port : Word) (v : Byte) (h : Memory.wf s.plat.mem = true) :
    Memory.wf (s.output port v).plat.mem = true :=
  Platform.wf_endCycle _ (by simpa using h)

end Sys2Proof.Machine
end

