-- ==== Sys2Proof/Laws/Cycles.lean ====
section
/-! SUPPORT. What the operations of more than one machine cycle do when nobody else takes the bus: words, the stack, read-modify-write. -/

namespace Sys2Proof.Machine

theorem SameMem.refl (s : State) : SameMem s s := fun _ => rfl

theorem SameMem.trans {s t u : State} (h : SameMem s t) (h' : SameMem t u) : SameMem s u :=
  fun x => (h' x).trans (h x)

/-- What memory reads as depends on its contents alone. -/
theorem SameMem.of_mem {s t u : State} (h : SameMem s t) (hm : u.plat.mem = t.plat.mem) : SameMem s u := by
  intro x
  simp only [State.peek, Platform.peek, hm]
  exact h x

theorem Stored.of_mem {s t u : State} {a : Word} {v : Byte} (h : Stored s t a v) (hm : u.plat.mem = t.plat.mem) :
    Stored s u a v := by
  simp only [Stored, State.peek, Platform.peek, hm]
  exact h

theorem Stored16.of_mem {s t u : State} {a v : Word} (h : Stored16 s t a v) (hm : u.plat.mem = t.plat.mem) :
    Stored16 s u a v := by
  simp only [Stored16, State.peek, Platform.peek, hm]
  exact h

/-- A byte stored after operations that change neither memory nor map is stored in the state they started from. -/
theorem Stored.of_same {s t u : State} {a : Word} {v : Byte} (hm : t.plat.memMap = s.plat.memMap) (h : SameMem s t)
    (h' : Stored t u a v) : Stored s u a v := by
  obtain ⟨h1, h2⟩ := h'
  refine ⟨?_, fun x hx => (h2 x hx).trans (h x)⟩
  rw [h1, Platform.kindAt_congr _ _ a hm, h a]

/-- A word stored after operations that change neither memory nor map is stored in the state they started from. -/
theorem Stored16.of_same {s t u : State} {a v : Word} (hm : t.plat.memMap = s.plat.memMap) (h : SameMem s t)
    (h' : Stored16 t u a v) : Stored16 s u a v := by
  obtain ⟨h1, h2, h3⟩ := h'
  refine ⟨?_, ?_, fun x hx hy => (h3 x hx hy).trans (h x)⟩
  · rw [h1, Platform.kindAt_congr _ _ a hm, h a]
  · rw [h2, Platform.kindAt_congr _ _ (a + 1) hm, h (a + 1)]

/-- A write cycle stores one byte (R73). -/
theorem State.write_stored (s : State) (a : Word) (v : Byte) (q : Quiet s) : Stored s (s.write a v) a v := by
  have h := (State.write_quiet s a v q).2.2
  refine ⟨?_, fun x hx => ?_⟩
  · rw [h]; simp only [true_and]
  · rw [h, if_neg (fun hh => hx hh.1)]

/-- What a write cycle adds to the history: nothing at a RAM address, else one event (R85, R86). -/
theorem State.write_busLog (s : State) (a : Word) (v : Byte) (q : Quiet s) :
    (s.write a v).plat.busLog = s.plat.busLog ++ (if s.plat.kindAt a = .ram then [] else [.memWrite a v]) := by
  have hg : (s.plat.writeCycle a v).grants = [] := by simpa [Quiet] using q
  simp only [State.write_plat, Platform.endCycle_quiet _ hg]
  unfold Platform.writeCycle
  cases h : s.plat.kindAt a <;> simp [Platform.logged]

/-- Two adjacent addresses differ (R82). -/
theorem succ_ne (a : Word) : a + 1 ≠ a := by
  intro h
  have := congrArg BitVec.toNat h
  simp only [BitVec.toNat_add] at this
  have := a.isLt
  simp at *

/-- Two bytes written at `a` and `a + 1`, in either order, are a word stored at `a`. -/
theorem stored16_of_bytes {s t u : State} {a v : Word}
    (h : (Stored s t a (loByte v) ∧ t.plat.memMap = s.plat.memMap ∧ Stored t u (a + 1) (hiByte v)) ∨
      (Stored s t (a + 1) (hiByte v) ∧ t.plat.memMap = s.plat.memMap ∧ Stored t u a (loByte v))) :
    Stored16 s u a v := by
  have ne := succ_ne a
  rcases h with ⟨⟨h1, h2⟩, hm, h3, h4⟩ | ⟨⟨h1, h2⟩, hm, h3, h4⟩
  · refine ⟨?_, ?_, fun x hx hy => (h4 x hy).trans (h2 x hx)⟩
    · rw [h4 a ne.symm, h1]
    · rw [h3, Platform.kindAt_congr _ _ _ hm, h2 _ ne]
  · refine ⟨?_, ?_, fun x hx hy => (h4 x hx).trans (h2 x hy)⟩
    · rw [h3, Platform.kindAt_congr _ _ _ hm, h2 _ ne.symm]
    · rw [h4 _ ne, h1]

/-- `MemWrite(a, 2, v)` (R79). -/
theorem State.write16_quiet (s : State) (a v : Word) (q : Quiet s) :
    Quiet (s.write16 a v) ∧ (s.write16 a v).plat.memMap = s.plat.memMap ∧ Stored16 s (s.write16 a v) a v := by
  have h := State.write_quiet s a (loByte v) q
  have h' := State.write_quiet (s.write a (loByte v)) (a + 1) (hiByte v) h.1
  exact ⟨h'.1, h'.2.1.trans h.2.1,
    stored16_of_bytes (.inl ⟨State.write_stored _ _ _ q, h.2.1, State.write_stored _ _ _ h.1⟩)⟩

/-- `MemRead(a, 2)` changes no byte of memory (R78). -/
theorem State.afterRead16_quiet (s : State) (a : Word) (q : Quiet s) :
    Quiet (s.afterRead16 a) ∧ (s.afterRead16 a).plat.memMap = s.plat.memMap ∧ SameMem s (s.afterRead16 a) := by
  have h := State.afterRead_quiet s a q
  have h' := State.afterRead_quiet (s.afterRead a) (a + 1) h.1
  exact ⟨h'.1, h'.2.1.trans h.2.1, h.2.2.trans h'.2.2⟩

/-- What `MemRead(a, 2)` returns from backed memory (R78). -/
theorem State.read16_backed (s : State) (a : Word) (q : Quiet s) (h : s.plat.backed a = true)
    (h' : s.plat.backed (a + 1) = true) : s.read16 a = wordOf (s.peek (a + 1)) (s.peek a) := by
  unfold State.read16
  rw [State.afterRead_backed s a q h]
  simp only [State.read, State.peek]
  rw [Platform.readVal_backed _ _ h, Platform.readVal_backed _ _ h']

/-- One byte pushed (R80). -/
theorem State.pushByte_quiet (s : State) (v : Byte) (q : Quiet s) :
    Quiet (s.pushByte v) ∧ (s.pushByte v).plat.memMap = s.plat.memMap ∧ Stored s (s.pushByte v) (s.sp - 1) v := by
  have h := State.write_quiet { s with sp := s.sp - 1 } (s.sp - 1) v q
  exact ⟨h.1, h.2.1, State.write_stored { s with sp := s.sp - 1 } (s.sp - 1) v q⟩

theorem sub_one_sub_one (a : Word) : a - 1 - 1 = a - 2 := by
  rw [BitVec.sub_sub]; rfl

theorem sub_two_add_one (a : Word) : a - 2 + 1 = a - 1 := by
  rw [← sub_one_sub_one, BitVec.sub_add_cancel]

theorem add_one_add_one (a : Word) : a + 1 + 1 = a + 2 := by
  rw [BitVec.add_assoc]; rfl

theorem sub_two_add_two (a : Word) : a - 2 + 2 = a := BitVec.sub_add_cancel a 2

@[simp] theorem State.push16_sp (s : State) (v : Word) : (s.push16 v).sp = s.sp - 2 := sub_one_sub_one s.sp

/-- `push16(v)` (R80). -/
theorem State.push16_quiet (s : State) (v : Word) (q : Quiet s) :
    Quiet (s.push16 v) ∧ (s.push16 v).plat.memMap = s.plat.memMap ∧ Stored16 s (s.push16 v) (s.sp - 2) v := by
  have h := State.pushByte_quiet s (hiByte v) q
  have h' := State.pushByte_quiet (s.pushByte (hiByte v)) (loByte v) h.1
  refine ⟨h'.1, h'.2.1.trans h.2.1, stored16_of_bytes (.inr ⟨?_, h.2.1, ?_⟩)⟩
  · rw [sub_two_add_one]; exact h.2.2
  · have := h'.2.2
    rw [State.pushByte_sp, sub_one_sub_one] at this
    exact this

/-- One byte popped (R80). -/
theorem State.afterPopByte_quiet (s : State) (q : Quiet s) :
    Quiet s.afterPopByte ∧ s.afterPopByte.plat.memMap = s.plat.memMap ∧ SameMem s s.afterPopByte :=
  State.afterRead_quiet s s.sp q

@[simp] theorem State.afterPop16_sp (s : State) : s.afterPop16.sp = s.sp + 2 := add_one_add_one s.sp

/-- `pop16()` changes no byte of memory (R80). -/
theorem State.afterPop16_quiet (s : State) (q : Quiet s) :
    Quiet s.afterPop16 ∧ s.afterPop16.plat.memMap = s.plat.memMap ∧ SameMem s s.afterPop16 := by
  have h := State.afterPopByte_quiet s q
  have h' := State.afterPopByte_quiet s.afterPopByte h.1
  exact ⟨h'.1, h'.2.1.trans h.2.1, h.2.2.trans h'.2.2⟩

/-- The value `pop16()` returns is the word read at SP (R80). -/
theorem State.pop16_eq_read16 (s : State) : s.pop16 = s.read16 s.sp := rfl

/-- A read-modify-write stores the new byte at the address read (R265). -/
theorem State.modify_quiet (s : State) (a : Word) (res : Byte → Byte) (q : Quiet s) :
    Quiet (s.modify a res) ∧ (s.modify a res).plat.memMap = s.plat.memMap ∧
    Stored s (s.modify a res) a (res (s.read a)) := by
  have h := State.afterRead_quiet s a q
  have h' := State.write_quiet (s.afterRead a) a (res (s.read a)) h.1
  exact ⟨h'.1, h'.2.1.trans h.2.1, .of_same h.2.1 h.2.2 (State.write_stored _ _ _ h.1)⟩

/-- The word on top of the stack replaced (R203). -/
theorem State.swapTop_quiet (s : State) (v : Word) (q : Quiet s) :
    Quiet (s.swapTop v) ∧ (s.swapTop v).plat.memMap = s.plat.memMap ∧ Stored16 s (s.swapTop v) s.sp v := by
  have h := State.afterRead16_quiet s s.sp q
  have h1 := State.write_quiet (s.afterRead16 s.sp) (s.sp + 1) (hiByte v) h.1
  have h2 := State.write_quiet _ s.sp (loByte v) h1.1
  exact ⟨h2.1, h2.2.1.trans (h1.2.1.trans h.2.1), .of_same h.2.1 h.2.2
    (stored16_of_bytes (.inr ⟨State.write_stored _ _ _ h.1, h1.2.1, State.write_stored _ _ _ h1.1⟩))⟩

/-- What a call does (R411, R417). -/
theorem State.callTo_quiet (s : State) (target : Word) (q : Quiet s) :
    Quiet (s.callTo target) ∧ (s.callTo target).plat.memMap = s.plat.memMap ∧
    Stored16 s (s.callTo target) (s.sp - 2) s.pc :=
  State.push16_quiet s s.pc q

/-- A return changes no byte of memory (R413). -/
theorem State.returnPop_quiet (s : State) (q : Quiet s) :
    Quiet s.returnPop ∧ s.returnPop.plat.memMap = s.plat.memMap ∧ SameMem s s.returnPop :=
  State.afterPop16_quiet s q

/-! What these operations change of the state: the pieces named, and what lies outside the CPU. -/

theorem State.afterRead16_eq (s : State) (a : Word) :
    s.afterRead16 a = { s with plat := (s.afterRead16 a).plat } := rfl

theorem State.write16_eq (s : State) (a v : Word) : s.write16 a v = { s with plat := (s.write16 a v).plat } := rfl

theorem State.modify_eq (s : State) (a : Word) (res : Byte → Byte) :
    s.modify a res = { s with plat := (s.modify a res).plat } := rfl

theorem State.swapTop_eq (s : State) (v : Word) : s.swapTop v = { s with plat := (s.swapTop v).plat } := by
  apply State.ext <;> simp [State.swapTop, State.afterRead16]

/-- The bus events of a push: the high byte's write, then the low byte's, where RAM does not answer (R80, R85). -/
theorem State.push16_busLog (s : State) (v : Word) (q : Quiet s) :
    (s.push16 v).plat.busLog = s.plat.busLog ++
      (if s.plat.kindAt (s.sp - 1) = .ram then [] else [.memWrite (s.sp - 1) (hiByte v)]) ++
      (if s.plat.kindAt (s.sp - 2) = .ram then [] else [.memWrite (s.sp - 2) (loByte v)]) := by
  have h := State.pushByte_quiet s (hiByte v) q
  have h2 := State.write_busLog { s.pushByte (hiByte v) with sp := s.sp - 1 - 1 } (s.sp - 1 - 1) (loByte v) h.1
  have h1 := State.write_busLog { s with sp := s.sp - 1 } (s.sp - 1) (hiByte v) q
  have k : (s.pushByte (hiByte v)).plat.kindAt (s.sp - 2) = s.plat.kindAt (s.sp - 2) :=
    Platform.kindAt_congr _ _ _ h.2.1
  rw [sub_one_sub_one] at h2
  refine Eq.trans (b := (({ s.pushByte (hiByte v) with sp := s.sp - 2 } : State).write (s.sp - 2) (loByte v)).plat.busLog) ?_ ?_
  · rw [← sub_one_sub_one]; rfl
  · rw [h2]
    simp only [k]
    congr 1

theorem State.push16_eq (s : State) (v : Word) :
    s.push16 v = { s with sp := s.sp - 2, plat := (s.push16 v).plat } := by
  apply State.ext <;> first | exact State.push16_sp s v | simp [State.push16]

theorem State.afterPop16_eq (s : State) :
    s.afterPop16 = { s with sp := s.sp + 2, plat := s.afterPop16.plat } := by
  apply State.ext <;> first | exact State.afterPop16_sp s | simp [State.afterPop16]

theorem State.callTo_eq (s : State) (target : Word) :
    s.callTo target = { s with pc := target, sp := s.sp - 2, plat := (s.push16 s.pc).plat } := by
  unfold State.callTo
  rw [State.push16_eq]

theorem State.returnPop_eq (s : State) :
    s.returnPop = { s with pc := s.pop16, sp := s.sp + 2, plat := s.afterPop16.plat } := by
  unfold State.returnPop
  rw [State.afterPop16_eq]

theorem State.returnNmi_eq (s : State) :
    s.returnNmi = { s with pc := s.pop16, sp := s.sp + 2, iff1 := s.iff2, plat := s.afterPop16.plat } := by
  unfold State.returnNmi
  rw [State.returnPop_eq]

/-- What the acceptance of an NMI changes (R445). -/
theorem State.acceptNmi_eq (s : State) :
    s.acceptNmi = { s with nmiPending := false, halted := false, iff1 := false, r := refreshNext s.r, pc := 0x0066#16,
                           sp := s.sp - 2, plat := s.acceptNmi.plat } := by
  unfold State.acceptNmi
  rw [State.callTo_eq]
  rfl

/-! The canonical form of memory, whatever other masters do. -/

theorem State.wf_afterRead16 (s : State) (a : Word) (h : Memory.wf s.plat.mem = true) :
    Memory.wf (s.afterRead16 a).plat.mem = true :=
  State.wf_afterRead _ _ (State.wf_afterRead _ _ h)

theorem State.wf_write16 (s : State) (a v : Word) (h : Memory.wf s.plat.mem = true) :
    Memory.wf (s.write16 a v).plat.mem = true :=
  State.wf_write _ _ _ (State.wf_write _ _ _ h)

theorem State.wf_modify (s : State) (a : Word) (res : Byte → Byte) (h : Memory.wf s.plat.mem = true) :
    Memory.wf (s.modify a res).plat.mem = true :=
  State.wf_write _ _ _ (State.wf_afterRead _ _ h)

theorem State.wf_swapTop (s : State) (v : Word) (h : Memory.wf s.plat.mem = true) :
    Memory.wf (s.swapTop v).plat.mem = true :=
  State.wf_write _ _ _ (State.wf_write _ _ _ (State.wf_afterRead16 _ _ h))

theorem State.wf_pushByte (s : State) (v : Byte) (h : Memory.wf s.plat.mem = true) :
    Memory.wf (s.pushByte v).plat.mem = true :=
  State.wf_write { s with sp := s.sp - 1 } _ _ h

theorem State.wf_push16 (s : State) (v : Word) (h : Memory.wf s.plat.mem = true) :
    Memory.wf (s.push16 v).plat.mem = true :=
  State.wf_pushByte _ _ (State.wf_pushByte _ _ h)

theorem State.wf_callTo (s : State) (target : Word) (h : Memory.wf s.plat.mem = true) :
    Memory.wf (s.callTo target).plat.mem = true :=
  State.wf_push16 s s.pc h

theorem State.wf_afterPop16 (s : State) (h : Memory.wf s.plat.mem = true) :
    Memory.wf s.afterPop16.plat.mem = true :=
  State.wf_afterRead s.afterPopByte _ (State.wf_afterRead s s.sp h)

theorem State.wf_returnPop (s : State) (h : Memory.wf s.plat.mem = true) :
    Memory.wf s.returnPop.plat.mem = true :=
  State.wf_afterPop16 _ h

/-! Register operands. -/

/-- What is written to a register is read from it (R104). -/
@[simp] theorem State.reg_setReg (s : State) (r : Reg8) (v : Byte) : (s.setReg r v).reg r = v := by
  cases r <;> rfl

/-- Writing a register leaves everything outside the CPU alone. -/
@[simp] theorem State.setReg_plat (s : State) (r : Reg8) (v : Byte) : (s.setReg r v).plat = s.plat := by
  cases r <;> rfl

/-- What is written to a pair is read from it (R105). -/
@[simp] theorem State.pair_setPair (s : State) (dd : Pair) (v : Word) : (s.setPair dd v).pair dd = v := by
  cases dd <;> simp [State.setPair, State.pair, State.setBc, State.setDe, State.setHl, State.bc, State.de, State.hl]

@[simp] theorem State.setPair_plat (s : State) (dd : Pair) (v : Word) : (s.setPair dd v).plat = s.plat := by
  cases dd <;> rfl

/-- What is written to a stack pair is read from it, all eight bits of F included (R106, R37). -/
@[simp] theorem State.stackPair_setStackPair (s : State) (qq : StackPair) (v : Word) :
    (s.setStackPair qq v).stackPair qq = v := by
  cases qq <;> simp [State.setStackPair, State.stackPair, State.setBc, State.setDe, State.setHl, State.setAf, State.bc,
    State.de, State.hl, State.af]

@[simp] theorem State.setStackPair_plat (s : State) (qq : StackPair) (v : Word) :
    (s.setStackPair qq v).plat = s.plat := by
  cases qq <;> rfl

end Sys2Proof.Machine
end

