-- ==== Sys2Proof/Laws/Events.lean ====
section
/-! SUPPORT. What the interrupt entries, the sampling of the inputs and the instruction fetch do, said once. -/

namespace Sys2Proof.Machine

/-- The sampling point writes the input fields alone (R437). -/
theorem State.sampleInputs_keeps (s : State) :
    s.sampleInputs = { s with schedule := s.schedule.tail, intLow := s.sampleInputs.intLow, intData := s.sampleInputs.intData,
                              nmiPending := s.sampleInputs.nmiPending, resetLow := s.sampleInputs.resetLow } := by
  unfold State.sampleInputs
  cases h : s.schedule with
  | nil => apply State.ext <;> simp
  | cons x rest => rfl

/-- The sampling point as the rules say it (R437, R440, R441). -/
theorem State.sampleInputs_sampled (s : State) : Sampled s s.sampleInputs := by
  unfold Sampled State.sampleInputs
  cases h : s.schedule <;> simp

/-- The byte an acceptance acknowledges (R452). -/
theorem State.ackByte_beginInt (s : State) : s.beginInt.ackByte = s.ackData := by
  unfold State.ackByte State.ackData State.beginInt State.clearIffRead
  split <;> rfl

/-- A run to its end, one step at a time (R499). -/
theorem runToEnd_ended (fuel : Nat) (s : State) (h : s.runEnded = true) : runToEnd fuel s = some (.next s) := by
  cases fuel <;> simp [runToEnd, h]

theorem runToEnd_next (fuel : Nat) (s t : State) (h : s.runEnded = false) (ht : step s = .next t) :
    runToEnd (fuel + 1) s = runToEnd fuel t := by
  simp [runToEnd, h, ht]

theorem runSteps_next (n : Nat) (s t : State) (ht : step s = .next t) : runSteps (n + 1) s = runSteps n t := by
  simp [runSteps, ht]

/-- The free P/V of U9 leaves memory, its map and the other masters alone (R459). -/
theorem State.clearIffRead_keeps (s : State) :
    s.clearIffRead.plat.mem = s.plat.mem ∧ s.clearIffRead.plat.memMap = s.plat.memMap ∧
    s.clearIffRead.plat.grants = s.plat.grants := by
  unfold State.clearIffRead
  split <;> exact ⟨rfl, rfl, rfl⟩

/-- What the acceptance of a maskable interrupt changes before the handler's address is found (R448). -/
theorem State.acknowledged_eq (s : State) :
    s.beginInt.acknowledge = { s with halted := false, iff1 := false, iff2 := false, r := refreshNext s.r,
                                      f := s.clearIffRead.f, plat := s.beginInt.acknowledge.plat } := by
  apply State.ext <;> simp [State.acknowledge, State.beginInt, State.clearIffRead] <;> split <;> simp

/-- The acknowledge cycle, nobody else on the bus, changes no byte of memory (R448). -/
theorem State.acknowledged_quiet (s : State) (q : Quiet s) :
    Quiet s.beginInt.acknowledge ∧ s.beginInt.acknowledge.plat.memMap = s.plat.memMap ∧
    SameMem s s.beginInt.acknowledge := by
  have c := State.clearIffRead_keeps s
  have hg : ((if s.beginInt.intData.isSome then s.beginInt.plat else s.beginInt.plat.drawn).logged
      (.intAck s.beginInt.pc s.beginInt.ackByte)).grants = [] := by
    split <;> simp [Platform.logged, State.beginInt, c] <;> exact q
  simp only [State.acknowledge, Quiet, SameMem, State.peek, Platform.peek, State.withPlat_plat,
    Platform.endCycle_quiet _ hg]
  refine ⟨hg, ?_, fun x => ?_⟩ <;> split <;> simp [Platform.logged, State.beginInt, c]

/-- The acknowledge cycle is one bus event, PC on the address lines (R452). -/
theorem State.acknowledged_busLog (s : State) (q : Quiet s) :
    s.beginInt.acknowledge.plat.busLog = s.plat.busLog ++ [.intAck s.pc s.ackData] := by
  have hg : ((if s.beginInt.intData.isSome then s.beginInt.plat else s.beginInt.plat.drawn).logged
      (.intAck s.beginInt.pc s.beginInt.ackByte)).grants = [] := by
    split <;> simp [Platform.logged, State.beginInt, State.clearIffRead_keeps] <;> exact q
  rw [State.acknowledge, State.withPlat_plat, Platform.endCycle_quiet _ hg, State.ackByte_beginInt]
  simp only [Platform.logged, State.beginInt, State.clearIffRead]
  split <;> split <;> rfl

/-- The acknowledge cycle keeps the canonical form of memory, whatever other masters do. -/
theorem State.wf_acknowledged (s : State) (h : Memory.wf s.plat.mem = true) :
    Memory.wf s.beginInt.acknowledge.plat.mem = true := by
  simp only [State.acknowledge, State.withPlat_plat]
  apply Platform.wf_endCycle
  split <;> simp [Platform.logged, State.beginInt, State.clearIffRead_keeps, h]

/-- The refresh count never moves bit 7 of R (R28). -/
theorem refreshNext_msb (r : Byte) : (refreshNext r).msb = r.msb := by
  revert r
  decide

/-- One fetch cycle writes PC and R and goes over the bus (R101). -/
theorem State.afterFetchByte_eq (s : State) (m1 : Bool) :
    s.afterFetchByte m1 = { s with pc := s.pc + 1, r := if m1 then refreshNext s.r else s.r,
                                   plat := (s.afterRead s.pc).plat } := by
  cases m1 <;> rfl

/-- A fetch leaves all but PC, R and the platform alone, and bit 7 of R (R101). -/
theorem fetchFrom_keeps (fuel : Nat) (bs : List Byte) (s s1 : State) (i : Instr)
    (h : fetchFrom fuel bs s = some (i, s1)) :
    s1 = { s with pc := s1.pc, r := s1.r, plat := s1.plat } ∧ s1.r.msb = s.r.msb ∧
    (Memory.wf s.plat.mem = true → Memory.wf s1.plat.mem = true) := by
  have one : ∀ (u : State) (b : Bool), (u.afterFetchByte b).r.msb = u.r.msb ∧
      (Memory.wf u.plat.mem = true → Memory.wf (u.afterFetchByte b).plat.mem = true) := by
    intro u b
    rw [State.afterFetchByte_eq]
    refine ⟨?_, State.wf_afterRead u u.pc⟩
    cases b <;> simp [refreshNext_msb]
  induction fuel generalizing bs s with
  | zero => simp [fetchFrom] at h
  | succ n ih =>
    unfold fetchFrom at h
    split at h
    · simp only [Option.some.injEq, Prod.mk.injEq] at h
      obtain ⟨-, rfl⟩ := h
      exact ⟨by rw [State.afterFetchByte_eq], one _ _⟩
    · have a := ih _ _ h
      have b := one s (isM1Byte bs)
      refine ⟨?_, a.2.1.trans b.1, fun hw => a.2.2 (b.2 hw)⟩
      have e := a.1
      rw [State.afterFetchByte_eq] at e
      exact e
    · simp at h

end Sys2Proof.Machine
end

