-- ==== Sys2Proof/Machine/Assembler.lean ====
section
/-! DEFINITION. The assembly language of R129 to R137: source lines to an image in memory. No step of the machine uses it. -/

namespace Sys2Proof.Machine

/-! Source text as data (R129, R130). -/

/-- A number or a word of an operand; `$` is the word for the address of the line (R137). -/
inductive AsmAtom where
  | num (n : Nat)
  | word (s : String)
deriving DecidableEq, Repr

/-- An operand: in parentheses or not, a head, and an optional `+` or `-` part (R129). -/
structure AsmOperand where
  paren : Bool
  head : AsmAtom
  plus : Option AsmAtom
  minus : Option AsmAtom
deriving DecidableEq, Repr

/-- A source line: an optional label, and a mnemonic or directive with its operands, or nothing (R129). -/
structure AsmLine where
  label : Option String
  op : Option (String × List AsmOperand)
deriving DecidableEq, Repr

/-- Why a source text is not assembled. -/
inductive AsmError where
  /-- A line does not have the form of R129. -/
  | badLine
  /-- No documented instruction or directive has this mnemonic with these operands, or an operand does not fit. -/
  | badStatement
  /-- MACRO and ENDM do not match (R135). -/
  | badMacro
deriving DecidableEq, Repr

/-- The value of a digit of a hexadecimal constant. -/
def hexDigit (ch : Char) : Option Nat :=
  if '0'.toNat ≤ ch.toNat ∧ ch.toNat ≤ '9'.toNat then some (ch.toNat - '0'.toNat)
  else if 'A'.toNat ≤ ch.toNat ∧ ch.toNat ≤ 'F'.toNat then some (ch.toNat - 'A'.toNat + 10)
  else none

/-- The value of digits in a base, most significant first. -/
def digitsValue (base : Nat) : Nat → List Char → Option Nat
  | acc, [] => some acc
  | acc, ch :: cs =>
    match hexDigit ch with
    | some v => if v < base then digitsValue base (base * acc + v) cs else none
    | none => none

/-- A constant (R130): hexadecimal when it ends in `H`, else decimal; it starts with a decimal digit. -/
def asmNumber (cs : List Char) : Option Nat :=
  match cs with
  | [] => none
  | ch :: _ =>
    if ch.isDigit then
      if cs.getLast? = some 'H' then digitsValue 16 0 cs.dropLast else digitsValue 10 0 cs
    else none

/-- A character a word may hold: a letter, a digit, `_` or the prime of `AF'`. DESIGN CHOICE, safe (log 24). -/
def isWordChar (ch : Char) : Bool := ch.isAlpha || ch.isDigit || ch == '_' || ch == '\''

/-- A number, `$`, or a word: a letter, then characters of `isWordChar`. DESIGN CHOICE, safe (log 24). -/
def asmAtom (cs : List Char) : Option AsmAtom :=
  match asmNumber cs with
  | some n => some (.num n)
  | none =>
    if cs = ['$'] then some (.word "$")
    else
      match cs with
      | ch :: _ => if ch.isAlpha && cs.all isWordChar then some (.word (String.ofList cs)) else none
      | [] => none

/-- Blanks removed, wherever they stand in an operand: DESIGN CHOICE, safe (log 24). -/
def withoutBlanks (cs : List Char) : List Char := cs.filter (fun ch => !ch.isWhitespace)

/-- Blanks removed at both ends. -/
def trimBlanks (cs : List Char) : List Char :=
  ((cs.dropWhile Char.isWhitespace).reverse.dropWhile Char.isWhitespace).reverse

/-- An operand without its parentheses. -/
def asmInner (paren : Bool) (cs : List Char) : Option AsmOperand :=
  let front := cs.takeWhile (fun ch => ch != '+' && ch != '-')
  match asmAtom front, cs.drop front.length with
  | some a, [] => some { paren := paren, head := a, plus := none, minus := none }
  | some a, sign :: rest =>
    match asmAtom rest with
    | some b =>
      if sign = '+' then some { paren := paren, head := a, plus := some b, minus := none }
      else some { paren := paren, head := a, plus := none, minus := some b }
    | none => none
  | none, _ => none

/-- An operand (R129): parentheses mean the contents of the location addressed. -/
def asmOperand (text : List Char) : Option AsmOperand :=
  match withoutBlanks text with
  | '(' :: cs => if cs.getLast? = some ')' then asmInner true cs.dropLast else none
  | cs => asmInner false cs

/-- Text split at a character. -/
def splitAtChar (sep : Char) : List Char → List (List Char)
  | [] => [[]]
  | ch :: cs =>
    match splitAtChar sep cs with
    | p :: ps => if ch = sep then [] :: p :: ps else (ch :: p) :: ps
    | [] => [[ch]]

/-- What follows a label: blanks, a mnemonic, its operands separated by commas (R129). -/
def asmOp (cs : List Char) : Option (Option (String × List AsmOperand)) :=
  let text := cs.dropWhile Char.isWhitespace
  let mnemonic := text.takeWhile (fun ch => !ch.isWhitespace)
  let rest := text.drop mnemonic.length
  if mnemonic = [] then some none
  else if withoutBlanks rest = [] then some (some (String.ofList mnemonic, []))
  else (splitAtChar ',' rest).mapM asmOperand |>.map (fun ops => some (String.ofList mnemonic, ops))

/-- A source line (R129): the comment from `;` on is dropped, a label ends with a colon. Blanks may stand around a label, not inside
it; `$` is no label; a line has at most one colon: DESIGN CHOICE, safe (log 24). -/
def asmLine (text : String) : Option AsmLine :=
  let cs := text.toList.takeWhile (fun ch => ch != ';')
  match splitAtChar ':' cs with
  | [body] => (asmOp body).map (fun o => { label := none, op := o })
  | [name, body] =>
    match asmAtom (trimBlanks name), asmOp body with
    | some (.word s), some o => if s = "$" then none else some { label := some s, op := o }
    | _, _ => none
  | _ => none

/-! Values of operands. -/

/-- What an operand's value depends on: the symbols, the address of the line, and whether only lengths are wanted, so that
every value counts as 0. -/
structure AsmEnv where
  symbols : List (String × Nat)
  here : Nat
  sizing : Bool
deriving DecidableEq, Repr

/-- The words that name registers and conditions, so never symbols in an operand: DESIGN CHOICE, safe (log 24). -/
def asmReserved : List String :=
  ["A", "B", "C", "D", "E", "H", "L", "I", "R", "AF", "AF'", "BC", "DE", "HL", "SP", "IX", "IY", "NZ", "Z", "NC"]
    ++ ["PO", "PE", "P", "M"]

/-- The value of a number, a symbol (R131), or `$`, the address of the line (R137). -/
def asmValue (env : AsmEnv) : AsmAtom → Option Nat
  | .num n => some (if env.sizing then 0 else n)
  | .word s =>
    if asmReserved.contains s then none
    else if env.sizing then some 0
    else if s = "$" then some env.here
    else env.symbols.lookup s

/-- The value of an immediate operand or an address: a number, a symbol, or `$` with a part added or subtracted. No other sum or
difference is an operand: DESIGN CHOICE, safe (log 24). -/
def operandValue (env : AsmEnv) (o : AsmOperand) : Option Int :=
  match o.head, o.plus, o.minus with
  | head, none, none => (asmValue env head).map Int.ofNat
  | .word "$", some a, _ => (asmValue env a).map (fun v => if env.sizing then 0 else (env.here : Int) + v)
  | .word "$", none, some a => (asmValue env a).map (fun v => if env.sizing then 0 else (env.here : Int) - v)
  | _, _, _ => none

/-- The operand is this word, in parentheses or not. -/
def AsmOperand.is (o : AsmOperand) (paren : Bool) (s : String) : Bool :=
  o == { paren := paren, head := .word s, plus := none, minus := none }

/-- An immediate byte n, 0 to 255 (R110). -/
def AsmOperand.byteVal (o : AsmOperand) (env : AsmEnv) (paren : Bool) : Option Byte :=
  match operandValue env o with
  | some v => if o.paren = paren ∧ 0 ≤ v ∧ v < 256 then some (BitVec.ofInt 8 v) else none
  | none => none

/-- A word nn, 0 to 65535 (R111, R113). -/
def AsmOperand.wordVal (o : AsmOperand) (env : AsmEnv) (paren : Bool) : Option Word :=
  match operandValue env o with
  | some v => if o.paren = paren ∧ 0 ≤ v ∧ v < 65536 then some (BitVec.ofInt 16 v) else none
  | none => none

/-- An interrupt mode 0, 1 or 2, outside parentheses (R309 to R311). -/
def AsmOperand.modeInstr (o : AsmOperand) (env : AsmEnv) : Option Instr :=
  match o.paren, operandValue env o with
  | false, some 0 => some .im0
  | false, some 1 => some .im1
  | false, some 2 => some .im2
  | _, _ => none

/-- A bit number 0 to 7 (R109). -/
def AsmOperand.bitVal (o : AsmOperand) (env : AsmEnv) : Option Nat :=
  match operandValue env o with
  | some v => if o.paren = false ∧ 0 ≤ v ∧ v < 8 then some v.toNat else none
  | none => none

/-- A displacement byte, when the value lies in -128 to 127 (R8, R116). -/
def displacement (v : Int) : Option Byte :=
  if -128 ≤ v ∧ v ≤ 127 then some (BitVec.ofInt 8 v) else none

/-- The displacement of JR and DJNZ: target - (A + 2) (R137). The difference is that of the numbers, not modulo 2^16, so a target
across FFFFH must be written as `$` plus or minus a value: DESIGN CHOICE, safe (log 24). -/
def relativeByte (target here : Int) : Option Byte := displacement (target - (here + 2))

/-- The displacement byte an operand of JR or DJNZ stands for. -/
def AsmOperand.relVal (o : AsmOperand) (env : AsmEnv) : Option Byte :=
  match operandValue env o with
  | some v => if o.paren then none else if env.sizing then some 0#8 else relativeByte v env.here
  | none => none

/-- `(IX+d)` or `(IY+d)` (R116). -/
def AsmOperand.idxVal (o : AsmOperand) (env : AsmEnv) : Option (Idx × Byte) :=
  let k : Option Idx :=
    if o.head = .word "IX" then some .ix else if o.head = .word "IY" then some .iy else none
  let v : Option Int :=
    match o.plus, o.minus with
    | some a, none => (asmValue env a).map Int.ofNat
    | none, some a => (asmValue env a).map (fun n => -(n : Int))
    | _, _ => none
  match o.paren, k, v with
  | true, some k, some v => (displacement v).map (fun d => (k, d))
  | _, _, _ => none

/-- A word looked up in a list of names, outside parentheses. -/
def AsmOperand.named {α : Type} (o : AsmOperand) (names : List (String × α)) : Option α :=
  match o.paren, o.head, o.plus, o.minus with
  | false, .word s, none, none => names.lookup s
  | _, _, _, _ => none

/-- A register (R104). -/
def AsmOperand.reg8 (o : AsmOperand) : Option Reg8 :=
  o.named [("B", .b), ("C", .c), ("D", .d), ("E", .e), ("H", .h), ("L", .l), ("A", .a)]

/-- A pair (R105). -/
def AsmOperand.pair (o : AsmOperand) : Option Pair :=
  o.named [("BC", .bc), ("DE", .de), ("HL", .hl), ("SP", .sp)]

/-- A pair of PUSH and POP (R106). -/
def AsmOperand.stackPair (o : AsmOperand) : Option StackPair :=
  o.named [("BC", .bc), ("DE", .de), ("HL", .hl), ("AF", .af)]

/-- An index register. -/
def AsmOperand.idx (o : AsmOperand) : Option Idx := o.named [("IX", .ix), ("IY", .iy)]

/-- A condition (R108). -/
def AsmOperand.cond (o : AsmOperand) : Option Cond :=
  o.named [("NZ", .nz), ("Z", .z), ("NC", .nc), ("C", .c), ("PO", .po), ("PE", .pe), ("P", .p), ("M", .m)]

/-- The first of several readings of a statement that fits. -/
def firstReading (rs : List (Option Instr)) : Option Instr := rs.findSome? id

/-! Statements to instructions, one function per shape of operands. -/

/-- The operand s of the accumulator operations (R136 b): r, n, (HL), (IX+d), (IY+d). -/
def asmAlu (env : AsmEnv) (ooo : Nat) (o : AsmOperand) : Option Instr :=
  firstReading
    [o.reg8.map (aluReg ooo), if o.is true "HL" then some (aluAtHl ooo) else none,
      (o.idxVal env).map (fun kd => aluIdx kd.1 ooo kd.2), (o.byteVal env false).map (aluImm ooo)]

/-- The operand of a rotate or shift (R122, R125). -/
def asmRot (env : AsmEnv) (ooo : Nat) (o : AsmOperand) : Option Instr :=
  firstReading
    [o.reg8.bind (rotReg ooo), if o.is true "HL" then rotAtHl ooo else none,
      (o.idxVal env).bind (fun kd => rotIdx kd.1 ooo kd.2)]

/-- A form on r, (HL), (IX+d) or (IY+d). -/
def asmMember (env : AsmEnv) (o : AsmOperand) (onReg : Reg8 → Instr) (onHl : Instr) (onIx onIy : Byte → Instr) :
    Option Instr :=
  firstReading
    [o.reg8.map onReg, if o.is true "HL" then some onHl else none,
      (o.idxVal env).map (fun kd => kd.1.pick (onIx kd.2) (onIy kd.2))]

/-- BIT, SET, RES. -/
def asmBit (env : AsmEnv) (o1 o2 : AsmOperand) (onReg : Nat → Reg8 → Instr) (onHl : Nat → Instr)
    (onIx onIy : Nat → Byte → Instr) : Option Instr :=
  (o1.bitVal env).bind (fun b => asmMember env o2 (onReg b) (onHl b) (onIx b) (onIy b))

/-- LD in all its forms (R140 to R161, R170 to R184). Of the two documented encodings of `LD HL,(nn)` and of `LD (nn),HL` the
shorter one is taken, 2AH and 22H (R174, R178), not ED 6B and ED 63 (R175, R179): DESIGN CHOICE, safe (log 24). -/
def asmLoad (env : AsmEnv) (o1 o2 : AsmOperand) : Option Instr :=
  let toReg (r : Reg8) : Option Instr :=
    firstReading
      [o2.reg8.map (.ldRR r), if o2.is true "HL" then some (.ldRAtHl r) else none,
        (o2.idxVal env).map (fun kd => kd.1.pick (.ldRAtIx r kd.2) (.ldRAtIy r kd.2)), (o2.byteVal env false).map (.ldRN r)]
  let fromA (i : Instr) (there : Bool) : Option Instr := if there && o2.is false "A" then some i else none
  let toA (i : Instr) (there : Bool) : Option Instr := if o1.is false "A" && there then some i else none
  let toSp (i : Instr) (s : String) : Option Instr := if o1.is false "SP" && o2.is false s then some i else none
  firstReading <|
    [toA .ldAIreg (o2.is false "I"), toA .ldARreg (o2.is false "R"), fromA .ldIregA (o1.is false "I"),
      fromA .ldRregA (o1.is false "R"), o1.reg8.bind toReg, toA .ldAAtBc (o2.is true "BC"),
      toA .ldAAtDe (o2.is true "DE"), (o2.wordVal env true).bind (fun nn => toA (.ldAAtNn nn) true)] ++
    [fromA .ldAtBcA (o1.is true "BC"), fromA .ldAtDeA (o1.is true "DE"),
      (o1.wordVal env true).bind (fun nn => fromA (.ldAtNnA nn) true),
      if o1.is true "HL" then o2.reg8.map .ldAtHlR else none,
      if o1.is true "HL" then (o2.byteVal env false).map .ldAtHlN else none,
      (o1.idxVal env).bind (fun kd => o2.reg8.map (fun r => kd.1.pick (.ldAtIxR kd.2 r) (.ldAtIyR kd.2 r))),
      (o1.idxVal env).bind (fun kd => (o2.byteVal env false).map (fun n => kd.1.pick (.ldAtIxN kd.2 n) (.ldAtIyN kd.2 n)))] ++
    [toSp .ldSpHl "HL", toSp .ldSpIx "IX", toSp .ldSpIy "IY",
      o1.pair.bind (fun dd => (o2.wordVal env false).map (.ldDdNn dd)),
      o1.idx.bind (fun k => (o2.wordVal env false).map (fun nn => k.pick (.ldIxNn nn) (.ldIyNn nn))),
      if o1.is false "HL" then (o2.wordVal env true).map .ldHlAtNn else none,
      o1.pair.bind (fun dd => (o2.wordVal env true).map (.ldDdAtNn dd)),
      o1.idx.bind (fun k => (o2.wordVal env true).map (fun nn => k.pick (.ldIxAtNn nn) (.ldIyAtNn nn)))] ++
    [if o2.is false "HL" then (o1.wordVal env true).map .ldAtNnHl else none,
      o2.pair.bind (fun dd => (o1.wordVal env true).map (fun nn => .ldAtNnDd nn dd)),
      o2.idx.bind (fun k => (o1.wordVal env true).map (fun nn => k.pick (.ldAtNnIx nn) (.ldAtNnIy nn)))]

/-- EX in all its forms (R200 to R205); `AF,AF` is `AF,AF'` (R136 d). -/
def asmExchange (o1 o2 : AsmOperand) : Option Instr :=
  if o1.is false "DE" && o2.is false "HL" then some .exDeHl
  else if o1.is false "AF" && (o2.is false "AF'" || o2.is false "AF") then some .exAfAf
  else if o1.is true "SP" then o2.named [("HL", .exAtSpHl), ("IX", .exAtSpIx), ("IY", .exAtSpIy)]
  else none

/-- The operations with an accumulator operand (R136 b): the field ooo of R224. -/
def asmAluCode : List (String × Nat) :=
  [("ADD", 0), ("ADC", 1), ("SUB", 2), ("SBC", 3), ("AND", 4), ("XOR", 5), ("OR", 6), ("CP", 7)]

/-- The rotates and shifts with an operand (R122): the field ooo. -/
def asmRotCode : List (String × Nat) :=
  [("RLC", 0), ("RRC", 1), ("RL", 2), ("RR", 3), ("SLA", 4), ("SRA", 5), ("SRL", 7)]

/-- The statements without operands; `HLT` is `HALT` (R136 a). -/
def asmPlain : List (String × Instr) :=
  [("EXX", .exx), ("LDI", .ldi), ("LDIR", .ldir), ("LDD", .ldd), ("LDDR", .lddr), ("CPI", .cpi), ("CPIR", .cpir),
    ("CPD", .cpd), ("CPDR", .cpdr), ("DAA", .daa), ("CPL", .cpl), ("NEG", .neg), ("CCF", .ccf), ("SCF", .scf)]
    ++ [("NOP", .nop), ("HALT", .halt), ("HLT", .halt), ("DI", .di), ("EI", .ei), ("RLCA", .rlca), ("RLA", .rla),
      ("RRCA", .rrca), ("RRA", .rra), ("RLD", .rld), ("RRD", .rrd), ("INI", .ini), ("INIR", .inir), ("IND", .ind)]
    ++ [("INDR", .indr), ("OUTI", .outi), ("OTIR", .otir), ("OUTD", .outd), ("OTDR", .otdr), ("RET", .ret),
      ("RETI", .reti), ("RETN", .retn)]

/-- The statements with one operand. -/
def asmUnary (env : AsmEnv) (m : String) (o : AsmOperand) : Option Instr :=
  match m with
  | "PUSH" => firstReading [o.stackPair.map .pushQq, o.idx.map (fun k => k.pick .pushIx .pushIy)]
  | "POP" => firstReading [o.stackPair.map .popQq, o.idx.map (fun k => k.pick .popIx .popIy)]
  | "INC" => firstReading [asmMember env o .incR .incAtHl .incAtIx .incAtIy, o.pair.map .incSs,
      o.idx.map (fun k => k.pick .incIx .incIy)]
  | "DEC" => firstReading [asmMember env o .decR .decAtHl .decAtIx .decAtIy, o.pair.map .decSs,
      o.idx.map (fun k => k.pick .decIx .decIy)]
  | "IM" => o.modeInstr env
  | "JP" =>
    if o.is true "HL" then some .jpHl else if o.is true "IX" then some .jpIx else if o.is true "IY" then some .jpIy
    else (o.wordVal env false).map .jpNn
  | "JR" => (o.relVal env).map .jrE
  | "DJNZ" => (o.relVal env).map .djnzE
  | "CALL" => (o.wordVal env false).map .callNn
  | "RET" => o.cond.map .retCc
  | "RST" => (o.byteVal env false).bind (fun p => if restartOk p then some (.rstP p) else none)
  | _ =>
    firstReading [(asmAluCode.lookup m).bind (fun k => asmAlu env k o), (asmRotCode.lookup m).bind (fun k => asmRot env k o)]

/-- The 16-bit additions and subtractions (R283 to R287). -/
def asmAddWord (m : String) (o1 o2 : AsmOperand) : Option Instr :=
  let onHl (k : Pair → Instr) : Option Instr := if o1.is false "HL" then o2.pair.map k else none
  let other (self : String) : Option IdxPair := o2.named [("BC", .bc), ("DE", .de), (self, .self), ("SP", .sp)]
  match m with
  | "ADD" => firstReading [onHl .addHlSs, if o1.is false "IX" then (other "IX").map .addIxPp else none,
      if o1.is false "IY" then (other "IY").map .addIyRr else none]
  | "ADC" => onHl .adcHlSs
  | "SBC" => onHl .sbcHlSs
  | _ => none

/-- The statements with two operands, destination first (R129). -/
def asmBinary (env : AsmEnv) (m : String) (o1 o2 : AsmOperand) : Option Instr :=
  match m with
  | "LD" => asmLoad env o1 o2
  | "EX" => asmExchange o1 o2
  | "BIT" => asmBit env o1 o2 .bitR .bitAtHl .bitAtIx .bitAtIy
  | "SET" => asmBit env o1 o2 .setR .setAtHl .setAtIx .setAtIy
  | "RES" => asmBit env o1 o2 .resR .resAtHl .resAtIx .resAtIy
  | "IN" => firstReading [if o2.is true "C" then o1.reg8.map .inRC else none,
      if o1.is false "A" then (o2.byteVal env true).map .inAN else none]
  | "OUT" => firstReading [if o1.is true "C" then o2.reg8.map .outCR else none,
      if o2.is false "A" then (o1.byteVal env true).map .outNA else none]
  | "JP" => o1.cond.bind (fun cc => (o2.wordVal env false).map (.jpCcNn cc))
  | "CALL" => o1.cond.bind (fun cc => (o2.wordVal env false).map (.callCcNn cc))
  | "JR" => (o2.relVal env).bind (fun e =>
      o1.named [("C", .jrCE e), ("NC", .jrNcE e), ("Z", .jrZE e), ("NZ", .jrNzE e)])
  | _ =>
    firstReading [if o1.is false "A" then (asmAluCode.lookup m).bind (fun k => asmAlu env k o2) else none, asmAddWord m o1 o2]

/-- The instruction a statement stands for (R129, R136). -/
def asmInstr (env : AsmEnv) (m : String) : List AsmOperand → Option Instr
  | [] => asmPlain.lookup m
  | [o] => asmUnary env m o
  | [o1, o2] => asmBinary env m o1 o2
  | _ => none

/-! The source text as a whole. -/

/-- Lines outside and inside a definition of R135 so far. -/
structure AsmExpansion where
  known : List (String × List AsmLine)
  reading : Option (String × List AsmLine)
  out : List AsmLine
deriving DecidableEq, Repr

/-- One line: into the definition being read, the start of one, a reference replaced by the lines it stands for, or itself
(R135). A label on the ENDM line is dropped, no symbol and no error: DESIGN CHOICE, safe (log 24). So are these (log 24): a label on
a reference names the first byte of what is inserted, a label inside a definition is a symbol of every insertion, a definition inside
a definition, a MACRO line without a label and an ENDM without a MACRO are errors, a reference inside a definition stands for what
its name means there, the latest definition of a name counts, also when the name is that of an instruction, and a name with operands
is no reference. -/
def AsmExpansion.line (x : AsmExpansion) (l : AsmLine) : Except AsmError AsmExpansion :=
  let lines : List AsmLine :=
    match l.op with
    | some (m, []) =>
      match x.known.lookup m with
      | some body => { label := l.label, op := none } :: body
      | none => [l]
    | _ => [l]
  match x.reading, l.label, l.op with
  | some (name, body), _, some ("ENDM", []) =>
    .ok { known := (name, body) :: x.known, reading := none, out := x.out }
  | some _, _, some ("MACRO", []) => .error .badMacro
  | some (name, body), _, _ => .ok { x with reading := some (name, body ++ lines) }
  | none, some name, some ("MACRO", []) => .ok { x with reading := some (name, []) }
  | none, none, some ("MACRO", []) => .error .badMacro
  | none, _, some ("ENDM", []) => .error .badMacro
  | none, _, _ => .ok { x with out := x.out ++ lines }

/-- The lines after all references are replaced (R135). -/
def asmExpand (ls : List AsmLine) : Except AsmError (List AsmLine) :=
  match ls.foldlM AsmExpansion.line { known := [], reading := none, out := [] } with
  | .ok x => if x.reading.isNone then .ok x.out else .error .badMacro
  | .error e => .error e

/-- One location of an image: an address modulo 2^16 and the byte there, or none where DEFS reserved it (R133). -/
abbrev AsmCell := Word × Option Byte

/-- The assembler part way through the lines. -/
structure AsmRun where
  here : Nat
  symbols : List (String × Nat)
  cells : List AsmCell
  ended : Bool
deriving DecidableEq, Repr

/-- Locations from the location counter on, which wraps from FFFFH to 0000H as addresses do (R100): DESIGN CHOICE, safe (log 24). -/
def AsmRun.emit (r : AsmRun) (bs : List (Option Byte)) : AsmRun :=
  { r with here := (r.here + bs.length) % 65536,
           cells := r.cells ++ bs.zipIdx.map (fun x => (BitVec.ofNat 16 (r.here + x.2), x.1)) }

/-- A symbol gets its value. -/
def AsmRun.define (r : AsmRun) (label : Option String) (v : Nat) : AsmRun :=
  match label with
  | some s => { r with symbols := (s, v) :: r.symbols }
  | none => r

/-- One line: a directive (R131 to R134) or an instruction. Directives that move the location counter or give a symbol its
value need symbols already known. A label on an ORG line names the location before ORG
moves the counter, one on an END line the location there; a register or condition name as a label is no error, but an operand that
writes it means the register or condition: DESIGN CHOICE, safe (log 24). -/
def AsmRun.line (sizing : Bool) (r : AsmRun) (l : AsmLine) : Except AsmError AsmRun :=
  let strict : AsmEnv := { symbols := r.symbols, here := r.here, sizing := false }
  let env : AsmEnv := { strict with sizing := sizing }
  let labelled := r.define l.label r.here
  if r.ended then .ok r
  else
    match l.op with
    | none => .ok labelled
    | some ("EQU", [o]) =>
      match l.label, o.wordVal strict false with
      | some s, some v => .ok (r.define (some s) v.toNat)
      | _, _ => .error .badStatement
    | some ("ORG", [o]) =>
      match o.wordVal strict false with
      | some v => .ok { labelled with here := v.toNat }
      | none => .error .badStatement
    | some ("END", []) => .ok { labelled with ended := true }
    | some ("DEFS", [o]) =>
      match o.wordVal strict false with
      | some v => .ok (labelled.emit (List.replicate v.toNat none))
      | none => .error .badStatement
    | some ("DEFB", [o]) =>
      match o.byteVal env false with
      | some v => .ok (labelled.emit [some v])
      | none => .error .badStatement
    | some ("DEFW", [o]) =>
      match o.wordVal env false with
      | some v => .ok (labelled.emit [some (loByte v), some (hiByte v)])
      | none => .error .badStatement
    | some (m, ops) =>
      match asmInstr env m ops with
      | some i => .ok (labelled.emit ((encode i).map some))
      | none => .error .badStatement

/-- All lines, from location 0 and the symbols already known. -/
def asmRun (sizing : Bool) (symbols : List (String × Nat)) (ls : List AsmLine) : Except AsmError AsmRun :=
  ls.foldlM (AsmRun.line sizing) { here := 0, symbols := symbols, cells := [], ended := false }

/-- The image of a source text: lines read (R129), references replaced (R135), symbols found, bytes emitted. Every line is read
and every reference replaced before END is looked for, so text after END must have the form of R129 with MACRO and ENDM matched,
and is ignored otherwise: DESIGN CHOICE, safe (log 24). -/
def assemble (source : List String) : Except AsmError (List AsmCell) :=
  match source.mapM asmLine with
  | none => .error .badLine
  | some ls =>
    match asmExpand ls with
    | .error e => .error e
    | .ok lines =>
      match asmRun true [] lines with
      | .error e => .error e
      | .ok r =>
        match asmRun false r.symbols lines with
        | .ok r' => .ok r'.cells
        | .error e => .error e

/-- An image placed in memory from outside the machine; what a location reserved by DEFS holds is free (R133). -/
def State.withImage (s : State) : List AsmCell → State
  | [] => s
  | (a, some v) :: cells => { s with plat := Platform.place s.plat a [v] }.withImage cells
  | (a, none) :: cells => { s with plat := Platform.place s.plat.drawn a [s.free] }.withImage cells

end Sys2Proof.Machine
end

