-- ==== Sys2Proof/Tests/Slice0.lean ====
section
/-! SUPPORT. Tests: ill-formed terms refused, words decoded, single steps from the spec's vectors, and a state that meets the
hypotheses of each statement. Expected results: `opcode_table.json`, `95_test_vectors.md` (S, X), `96_test_vectors_derived.md` (V). -/

set_option maxRecDepth 20000

namespace Sys2Proof.Machine

/-! Terms that are no instruction. -/

theorem test_wellFormed_refuses_bit_8 :
    (Instr.bitR 8 .a).wellFormed = false ∧ (Instr.bitAtHl 8).wellFormed = false ∧ (Instr.bitAtIx 8 0).wellFormed = false ∧
    (Instr.bitAtIy 8 0).wellFormed = false ∧ (Instr.setR 8 .a).wellFormed = false ∧ (Instr.setAtHl 8).wellFormed = false ∧
    (Instr.setAtIx 8 0).wellFormed = false ∧ (Instr.setAtIy 8 0).wellFormed = false ∧ (Instr.resR 8 .a).wellFormed = false ∧
    (Instr.resAtHl 8).wellFormed = false ∧ (Instr.resAtIx 8 0).wellFormed = false ∧ (Instr.resAtIy 8 0).wellFormed = false := by
  decide

theorem test_wellFormed_accepts_bit_7 : (Instr.bitR 7 .a).wellFormed = true ∧ (Instr.resAtIy 7 0x80#8).wellFormed = true := by
  decide

theorem test_wellFormed_refuses_restart_01 : (Instr.rstP 0x01#8).wellFormed = false ∧ (Instr.rstP 0x40#8).wellFormed = false := by
  decide

theorem test_wellFormed_accepts_restart_38 : (Instr.rstP 0x38#8).wellFormed = true ∧ (Instr.rstP 0x00#8).wellFormed = true := by
  decide

/-! Decoding, every constructor. -/

/-- Words written out bit by bit from the `encoding` column of `opcode_table.json`, `40_load8.md`. -/
theorem test_decode_load8 :
    ([([0b01000001#8], .ldRR .b .c, 1),
      ([0b00101110#8, 0b10100101#8], .ldRN .l 0xA5#8, 2),
      ([0b01010110#8], .ldRAtHl .d, 1),
      ([0b11011101#8, 0b01111110#8, 0b10000101#8], .ldRAtIx .a 0x85#8, 3),
      ([0b11111101#8, 0b01100110#8, 0b10000101#8], .ldRAtIy .h 0x85#8, 3),
      ([0b01110010#8], .ldAtHlR .d, 1),
      ([0b11011101#8, 0b01110000#8, 0b10000101#8], .ldAtIxR 0x85#8 .b, 3),
      ([0b11111101#8, 0b01110100#8, 0b10000101#8], .ldAtIyR 0x85#8 .h, 3),
      ([0b00110110#8, 0b10100101#8], .ldAtHlN 0xA5#8, 2),
      ([0b11011101#8, 0b00110110#8, 0b10000101#8, 0b10100101#8], .ldAtIxN 0x85#8 0xA5#8, 4)] ++
     [([0b11111101#8, 0b00110110#8, 0b10000101#8, 0b10100101#8], .ldAtIyN 0x85#8 0xA5#8, 4),
      ([0b00001010#8], .ldAAtBc, 1),
      ([0b00011010#8], .ldAAtDe, 1),
      ([0b00111010#8, 0b00110100#8, 0b00010010#8], .ldAAtNn 0x1234#16, 3),
      ([0b00000010#8], .ldAtBcA, 1),
      ([0b00010010#8], .ldAtDeA, 1),
      ([0b00110010#8, 0b00110100#8, 0b00010010#8], .ldAtNnA 0x1234#16, 3),
      ([0b11101101#8, 0b01010111#8], .ldAIreg, 2),
      ([0b11101101#8, 0b01011111#8], .ldARreg, 2),
      ([0b11101101#8, 0b01000111#8], .ldIregA, 2)] ++
     [([0b11101101#8, 0b01001111#8], .ldRregA, 2)] : List (List Byte × Instr × Nat)).all
      (fun x => decodeBytes x.1 == .ok x.2.1 x.2.2 && encode x.2.1 == x.1) = true := by decide

/-- Words written out bit by bit from the `encoding` column of `opcode_table.json`, `41_load16_stack.md`. -/
theorem test_decode_load16_stack :
    ([([0b00010001#8, 0b00110100#8, 0b00010010#8], .ldDdNn .de 0x1234#16, 3),
      ([0b11011101#8, 0b00100001#8, 0b00110100#8, 0b00010010#8], .ldIxNn 0x1234#16, 4),
      ([0b11111101#8, 0b00100001#8, 0b00110100#8, 0b00010010#8], .ldIyNn 0x1234#16, 4),
      ([0b00101010#8, 0b00110100#8, 0b00010010#8], .ldHlAtNn 0x1234#16, 3),
      ([0b11101101#8, 0b01011011#8, 0b00110100#8, 0b00010010#8], .ldDdAtNn .de 0x1234#16, 4),
      ([0b11011101#8, 0b00101010#8, 0b00110100#8, 0b00010010#8], .ldIxAtNn 0x1234#16, 4),
      ([0b11111101#8, 0b00101010#8, 0b00110100#8, 0b00010010#8], .ldIyAtNn 0x1234#16, 4),
      ([0b00100010#8, 0b00110100#8, 0b00010010#8], .ldAtNnHl 0x1234#16, 3),
      ([0b11101101#8, 0b01010011#8, 0b00110100#8, 0b00010010#8], .ldAtNnDd 0x1234#16 .de, 4),
      ([0b11011101#8, 0b00100010#8, 0b00110100#8, 0b00010010#8], .ldAtNnIx 0x1234#16, 4)] ++
     [([0b11111101#8, 0b00100010#8, 0b00110100#8, 0b00010010#8], .ldAtNnIy 0x1234#16, 4),
      ([0b11111001#8], .ldSpHl, 1),
      ([0b11011101#8, 0b11111001#8], .ldSpIx, 2),
      ([0b11111101#8, 0b11111001#8], .ldSpIy, 2),
      ([0b11110101#8], .pushQq .af, 1),
      ([0b11011101#8, 0b11100101#8], .pushIx, 2),
      ([0b11111101#8, 0b11100101#8], .pushIy, 2),
      ([0b11100001#8], .popQq .hl, 1),
      ([0b11011101#8, 0b11100001#8], .popIx, 2),
      ([0b11111101#8, 0b11100001#8], .popIy, 2)] : List (List Byte × Instr × Nat)).all
      (fun x => decodeBytes x.1 == .ok x.2.1 x.2.2 && encode x.2.1 == x.1) = true := by decide

/-- Words written out bit by bit from the `encoding` column of `opcode_table.json`, `42_exchange_block_search.md`. -/
theorem test_decode_exchange_block_search :
    ([([0b11101011#8], .exDeHl, 1),
      ([0b00001000#8], .exAfAf, 1),
      ([0b11011001#8], .exx, 1),
      ([0b11100011#8], .exAtSpHl, 1),
      ([0b11011101#8, 0b11100011#8], .exAtSpIx, 2),
      ([0b11111101#8, 0b11100011#8], .exAtSpIy, 2),
      ([0b11101101#8, 0b10100000#8], .ldi, 2),
      ([0b11101101#8, 0b10110000#8], .ldir, 2),
      ([0b11101101#8, 0b10101000#8], .ldd, 2),
      ([0b11101101#8, 0b10111000#8], .lddr, 2)] ++
     [([0b11101101#8, 0b10100001#8], .cpi, 2),
      ([0b11101101#8, 0b10110001#8], .cpir, 2),
      ([0b11101101#8, 0b10101001#8], .cpd, 2),
      ([0b11101101#8, 0b10111001#8], .cpdr, 2)] : List (List Byte × Instr × Nat)).all
      (fun x => decodeBytes x.1 == .ok x.2.1 x.2.2 && encode x.2.1 == x.1) = true := by decide

/-- Words written out bit by bit from the `encoding` column of `opcode_table.json`, `43_alu8.md`. -/
theorem test_decode_alu8 :
    ([([0b10000100#8], .addAR .h, 1),
      ([0b11000110#8, 0b10100101#8], .addAN 0xA5#8, 2),
      ([0b10000110#8], .addAAtHl, 1),
      ([0b11011101#8, 0b10000110#8, 0b10000101#8], .addAAtIx 0x85#8, 3),
      ([0b11111101#8, 0b10000110#8, 0b10000101#8], .addAAtIy 0x85#8, 3),
      ([0b10001101#8], .adcAR .l, 1),
      ([0b11001110#8, 0b10100101#8], .adcAN 0xA5#8, 2),
      ([0b10001110#8], .adcAAtHl, 1),
      ([0b11011101#8, 0b10001110#8, 0b10000101#8], .adcAAtIx 0x85#8, 3),
      ([0b11111101#8, 0b10001110#8, 0b10000101#8], .adcAAtIy 0x85#8, 3)] ++
     [([0b10010000#8], .subR .b, 1),
      ([0b11010110#8, 0b10100101#8], .subN 0xA5#8, 2),
      ([0b10010110#8], .subAtHl, 1),
      ([0b11011101#8, 0b10010110#8, 0b10000101#8], .subAtIx 0x85#8, 3),
      ([0b11111101#8, 0b10010110#8, 0b10000101#8], .subAtIy 0x85#8, 3),
      ([0b10011000#8], .sbcAR .b, 1),
      ([0b11011110#8, 0b10100101#8], .sbcAN 0xA5#8, 2),
      ([0b10011110#8], .sbcAAtHl, 1),
      ([0b11011101#8, 0b10011110#8, 0b10000101#8], .sbcAAtIx 0x85#8, 3),
      ([0b11111101#8, 0b10011110#8, 0b10000101#8], .sbcAAtIy 0x85#8, 3)] : List (List Byte × Instr × Nat)).all
      (fun x => decodeBytes x.1 == .ok x.2.1 x.2.2 && encode x.2.1 == x.1) = true := by decide

/-- Words written out bit by bit from the `encoding` column of `opcode_table.json`, `43_alu8_logic_incdec.md`. -/
theorem test_decode_alu8_logic_incdec :
    ([([0b10100000#8], .andR .b, 1),
      ([0b11100110#8, 0b10100101#8], .andN 0xA5#8, 2),
      ([0b10100110#8], .andAtHl, 1),
      ([0b11011101#8, 0b10100110#8, 0b10000101#8], .andAtIx 0x85#8, 3),
      ([0b11111101#8, 0b10100110#8, 0b10000101#8], .andAtIy 0x85#8, 3),
      ([0b10101001#8], .xorR .c, 1),
      ([0b11101110#8, 0b10100101#8], .xorN 0xA5#8, 2),
      ([0b10101110#8], .xorAtHl, 1),
      ([0b11011101#8, 0b10101110#8, 0b10000101#8], .xorAtIx 0x85#8, 3),
      ([0b11111101#8, 0b10101110#8, 0b10000101#8], .xorAtIy 0x85#8, 3)] ++
     [([0b10110010#8], .orR .d, 1),
      ([0b11110110#8, 0b10100101#8], .orN 0xA5#8, 2),
      ([0b10110110#8], .orAtHl, 1),
      ([0b11011101#8, 0b10110110#8, 0b10000101#8], .orAtIx 0x85#8, 3),
      ([0b11111101#8, 0b10110110#8, 0b10000101#8], .orAtIy 0x85#8, 3),
      ([0b10111011#8], .cpR .e, 1),
      ([0b11111110#8, 0b10100101#8], .cpN 0xA5#8, 2),
      ([0b10111110#8], .cpAtHl, 1),
      ([0b11011101#8, 0b10111110#8, 0b10000101#8], .cpAtIx 0x85#8, 3),
      ([0b11111101#8, 0b10111110#8, 0b10000101#8], .cpAtIy 0x85#8, 3)] ++
     [([0b00011100#8], .incR .e, 1),
      ([0b00110100#8], .incAtHl, 1),
      ([0b11011101#8, 0b00110100#8, 0b10000101#8], .incAtIx 0x85#8, 3),
      ([0b11111101#8, 0b00110100#8, 0b10000101#8], .incAtIy 0x85#8, 3),
      ([0b00111101#8], .decR .a, 1),
      ([0b00110101#8], .decAtHl, 1),
      ([0b11011101#8, 0b00110101#8, 0b10000101#8], .decAtIx 0x85#8, 3),
      ([0b11111101#8, 0b00110101#8, 0b10000101#8], .decAtIy 0x85#8, 3)] : List (List Byte × Instr × Nat)).all
      (fun x => decodeBytes x.1 == .ok x.2.1 x.2.2 && encode x.2.1 == x.1) = true := by decide

/-- Words written out bit by bit from the `encoding` column of `opcode_table.json`, `44_arith16.md`. -/
theorem test_decode_arith16 :
    ([([0b00111001#8], .addHlSs .sp, 1),
      ([0b11101101#8, 0b01001010#8], .adcHlSs .bc, 2),
      ([0b11101101#8, 0b01010010#8], .sbcHlSs .de, 2),
      ([0b11011101#8, 0b00101001#8], .addIxPp .self, 2),
      ([0b11111101#8, 0b00111001#8], .addIyRr .sp, 2),
      ([0b00000011#8], .incSs .bc, 1),
      ([0b11011101#8, 0b00100011#8], .incIx, 2),
      ([0b11111101#8, 0b00100011#8], .incIy, 2),
      ([0b00111011#8], .decSs .sp, 1),
      ([0b11011101#8, 0b00101011#8], .decIx, 2)] ++
     [([0b11111101#8, 0b00101011#8], .decIy, 2)] : List (List Byte × Instr × Nat)).all
      (fun x => decodeBytes x.1 == .ok x.2.1 x.2.2 && encode x.2.1 == x.1) = true := by decide

/-- Words written out bit by bit from the `encoding` column of `opcode_table.json`, `45_general_cpu_control.md`. -/
theorem test_decode_general_cpu_control :
    ([([0b00100111#8], .daa, 1),
      ([0b00101111#8], .cpl, 1),
      ([0b11101101#8, 0b01000100#8], .neg, 2),
      ([0b00111111#8], .ccf, 1),
      ([0b00110111#8], .scf, 1),
      ([0b00000000#8], .nop, 1),
      ([0b01110110#8], .halt, 1),
      ([0b11110011#8], .di, 1),
      ([0b11111011#8], .ei, 1),
      ([0b11101101#8, 0b01000110#8], .im0, 2)] ++
     [([0b11101101#8, 0b01010110#8], .im1, 2),
      ([0b11101101#8, 0b01011110#8], .im2, 2)] : List (List Byte × Instr × Nat)).all
      (fun x => decodeBytes x.1 == .ok x.2.1 x.2.2 && encode x.2.1 == x.1) = true := by decide

/-- Words written out bit by bit from the `encoding` column of `opcode_table.json`, `46_rotate_shift.md`. -/
theorem test_decode_rotate_shift :
    ([([0b00000111#8], .rlca, 1),
      ([0b00010111#8], .rla, 1),
      ([0b00001111#8], .rrca, 1),
      ([0b00011111#8], .rra, 1),
      ([0b11001011#8, 0b00000011#8], .rlcR .e, 2),
      ([0b11001011#8, 0b00000110#8], .rlcAtHl, 2),
      ([0b11011101#8, 0b11001011#8, 0b10000101#8, 0b00000110#8], .rlcAtIx 0x85#8, 4),
      ([0b11111101#8, 0b11001011#8, 0b10000101#8, 0b00000110#8], .rlcAtIy 0x85#8, 4),
      ([0b11001011#8, 0b00010000#8], .rlR .b, 2),
      ([0b11001011#8, 0b00010110#8], .rlAtHl, 2)] ++
     [([0b11011101#8, 0b11001011#8, 0b10000101#8, 0b00010110#8], .rlAtIx 0x85#8, 4),
      ([0b11111101#8, 0b11001011#8, 0b10000101#8, 0b00010110#8], .rlAtIy 0x85#8, 4),
      ([0b11001011#8, 0b00001011#8], .rrcR .e, 2),
      ([0b11001011#8, 0b00001110#8], .rrcAtHl, 2),
      ([0b11011101#8, 0b11001011#8, 0b10000101#8, 0b00001110#8], .rrcAtIx 0x85#8, 4),
      ([0b11111101#8, 0b11001011#8, 0b10000101#8, 0b00001110#8], .rrcAtIy 0x85#8, 4),
      ([0b11001011#8, 0b00011000#8], .rrR .b, 2),
      ([0b11001011#8, 0b00011110#8], .rrAtHl, 2),
      ([0b11011101#8, 0b11001011#8, 0b10000101#8, 0b00011110#8], .rrAtIx 0x85#8, 4),
      ([0b11111101#8, 0b11001011#8, 0b10000101#8, 0b00011110#8], .rrAtIy 0x85#8, 4)] : List (List Byte × Instr × Nat)).all
      (fun x => decodeBytes x.1 == .ok x.2.1 x.2.2 && encode x.2.1 == x.1) = true := by decide

/-- Words written out bit by bit from the `encoding` column of `opcode_table.json`, `46_shift_digit.md`. -/
theorem test_decode_shift_digit :
    ([([0b11001011#8, 0b00100011#8], .slaR .e, 2),
      ([0b11001011#8, 0b00100110#8], .slaAtHl, 2),
      ([0b11011101#8, 0b11001011#8, 0b10000101#8, 0b00100110#8], .slaAtIx 0x85#8, 4),
      ([0b11111101#8, 0b11001011#8, 0b10000101#8, 0b00100110#8], .slaAtIy 0x85#8, 4),
      ([0b11001011#8, 0b00101000#8], .sraR .b, 2),
      ([0b11001011#8, 0b00101110#8], .sraAtHl, 2),
      ([0b11011101#8, 0b11001011#8, 0b10000101#8, 0b00101110#8], .sraAtIx 0x85#8, 4),
      ([0b11111101#8, 0b11001011#8, 0b10000101#8, 0b00101110#8], .sraAtIy 0x85#8, 4),
      ([0b11001011#8, 0b00111011#8], .srlR .e, 2),
      ([0b11001011#8, 0b00111110#8], .srlAtHl, 2)] ++
     [([0b11011101#8, 0b11001011#8, 0b10000101#8, 0b00111110#8], .srlAtIx 0x85#8, 4),
      ([0b11111101#8, 0b11001011#8, 0b10000101#8, 0b00111110#8], .srlAtIy 0x85#8, 4),
      ([0b11101101#8, 0b01101111#8], .rld, 2),
      ([0b11101101#8, 0b01100111#8], .rrd, 2)] : List (List Byte × Instr × Nat)).all
      (fun x => decodeBytes x.1 == .ok x.2.1 x.2.2 && encode x.2.1 == x.1) = true := by decide

/-- Words written out bit by bit from the `encoding` column of `opcode_table.json`, `47_bit.md`. -/
theorem test_decode_bit :
    ([([0b11001011#8, 0b01000001#8], .bitR 0 .c, 2),
      ([0b11001011#8, 0b01101110#8], .bitAtHl 5, 2),
      ([0b11011101#8, 0b11001011#8, 0b10000101#8, 0b01010110#8], .bitAtIx 2 0x85#8, 4),
      ([0b11111101#8, 0b11001011#8, 0b10000101#8, 0b01111110#8], .bitAtIy 7 0x85#8, 4),
      ([0b11001011#8, 0b11100101#8], .setR 4 .l, 2),
      ([0b11001011#8, 0b11001110#8], .setAtHl 1, 2),
      ([0b11011101#8, 0b11001011#8, 0b10000101#8, 0b11110110#8], .setAtIx 6 0x85#8, 4),
      ([0b11111101#8, 0b11001011#8, 0b10000101#8, 0b11011110#8], .setAtIy 3 0x85#8, 4),
      ([0b11001011#8, 0b10000001#8], .resR 0 .c, 2),
      ([0b11001011#8, 0b10101110#8], .resAtHl 5, 2)] ++
     [([0b11011101#8, 0b11001011#8, 0b10000101#8, 0b10010110#8], .resAtIx 2 0x85#8, 4),
      ([0b11111101#8, 0b11001011#8, 0b10000101#8, 0b10111110#8], .resAtIy 7 0x85#8, 4)] : List (List Byte × Instr × Nat)).all
      (fun x => decodeBytes x.1 == .ok x.2.1 x.2.2 && encode x.2.1 == x.1) = true := by decide

/-- Words written out bit by bit from the `encoding` column of `opcode_table.json`, `48_io.md`. -/
theorem test_decode_io :
    ([([0b11011011#8, 0b10100101#8], .inAN 0xA5#8, 2),
      ([0b11101101#8, 0b01001000#8], .inRC .c, 2),
      ([0b11101101#8, 0b10100010#8], .ini, 2),
      ([0b11101101#8, 0b10110010#8], .inir, 2),
      ([0b11101101#8, 0b10101010#8], .ind, 2),
      ([0b11101101#8, 0b10111010#8], .indr, 2),
      ([0b11010011#8, 0b10100101#8], .outNA 0xA5#8, 2),
      ([0b11101101#8, 0b01000001#8], .outCR .b, 2),
      ([0b11101101#8, 0b10100011#8], .outi, 2),
      ([0b11101101#8, 0b10110011#8], .otir, 2)] ++
     [([0b11101101#8, 0b10101011#8], .outd, 2),
      ([0b11101101#8, 0b10111011#8], .otdr, 2)] : List (List Byte × Instr × Nat)).all
      (fun x => decodeBytes x.1 == .ok x.2.1 x.2.2 && encode x.2.1 == x.1) = true := by decide

/-- Words written out bit by bit from the `encoding` column of `opcode_table.json`, `49_jump_call_return.md`. -/
theorem test_decode_jump_call_return :
    ([([0b11000011#8, 0b00110100#8, 0b00010010#8], .jpNn 0x1234#16, 3),
      ([0b11101010#8, 0b00110100#8, 0b00010010#8], .jpCcNn .pe 0x1234#16, 3),
      ([0b00011000#8, 0b11111110#8], .jrE 0xFE#8, 2),
      ([0b00111000#8, 0b11111110#8], .jrCE 0xFE#8, 2),
      ([0b00110000#8, 0b11111110#8], .jrNcE 0xFE#8, 2),
      ([0b00101000#8, 0b11111110#8], .jrZE 0xFE#8, 2),
      ([0b00100000#8, 0b11111110#8], .jrNzE 0xFE#8, 2),
      ([0b11101001#8], .jpHl, 1),
      ([0b11011101#8, 0b11101001#8], .jpIx, 2),
      ([0b11111101#8, 0b11101001#8], .jpIy, 2)] ++
     [([0b00010000#8, 0b11111110#8], .djnzE 0xFE#8, 2),
      ([0b11001101#8, 0b00110100#8, 0b00010010#8], .callNn 0x1234#16, 3),
      ([0b11100100#8, 0b00110100#8, 0b00010010#8], .callCcNn .po 0x1234#16, 3),
      ([0b11001001#8], .ret, 1),
      ([0b11110000#8], .retCc .p, 1),
      ([0b11101101#8, 0b01001101#8], .reti, 2),
      ([0b11101101#8, 0b01000101#8], .retn, 2),
      ([0b11101111#8], .rstP 0x28#8, 1)] : List (List Byte × Instr × Nat)).all
      (fun x => decodeBytes x.1 == .ok x.2.1 x.2.2 && encode x.2.1 == x.1) = true := by decide

/-- R126: first bytes alone ask for more, the refused sequences of each table are refused by name. -/
theorem test_decode_refuses :
    decodeBytes [0xDD#8] = .more ∧ decodeBytes [0x3E#8] = .more ∧ decodeBytes [0xDD#8, 0xCB#8, 0x05#8] = .more ∧
    decodeBytes [0xCB#8, 0x30#8] = .undocumented ∧ decodeBytes [0xED#8, 0x00#8] = .undocumented ∧
    decodeBytes [0xDD#8, 0x44#8] = .undocumented ∧ decodeBytes [0xFD#8, 0xCB#8, 0x05#8, 0x36#8] = .undocumented := by decide

/-- The table's own numbering: LDIR is EDB0 with the first byte leftmost; the other byte order gives the same instruction. -/
theorem test_decodeTableWord :
    decodeTableWord 16 0xEDB0 = some .ldir ∧ decodeTableWord 16 0xB0ED = some .ldir ∧ decodeTableWord 8 0x76 = some .halt ∧
    decodeTableWord 24 0x320000 = some (.ldAtNnA 0) ∧ decodeTableWord 32 0xDDCB0006 = some (.rlcAtIx 0) := by decide

/-! One step on a small state. -/

/-- The state after RESET with bytes placed at PC and at other addresses. -/
def start (pc : Word) (bytes : List Byte) (cells : List (Word × Byte)) : State :=
  { State.reset with
    pc := pc,
    plat := cells.foldl (fun p x => p.place x.1 [x.2]) (Platform.empty.place pc bytes) }

/-- A device answers the coming reads with this byte. -/
def answering (v : Byte) (s : State) : State := { s with plat := { s.plat with ioScript := [v, v] } }

/-- F from the six flags S, Z, H, P/V, N, C. -/
def six (v : BitVec 6) : Flags :=
  { s := v.getLsbD 5, z := v.getLsbD 4, x5 := false, h := v.getLsbD 3, x3 := false, pv := v.getLsbD 2, n := v.getLsbD 1,
    c := v.getLsbD 0 }

/-- The six flags S, Z, H, P/V, N, C. -/
def bits (f : Flags) : BitVec 6 :=
  BitVec.ofBool f.s ++ BitVec.ofBool f.z ++ BitVec.ofBool f.h ++ BitVec.ofBool f.pv ++ BitVec.ofBool f.n ++ BitVec.ofBool f.c

/-- The step gives a next state of which this holds. -/
def ends (x : Result) (p : State → Bool) : Bool :=
  match x with
  | .next t => p t
  | _ => false

/-- The step is refused for this reason. -/
def refuses (x : Result) (why : Refusal) : Bool :=
  match x with
  | .refused y => y == why
  | _ => false

/-- A second step after the first. -/
def andThen (x : Result) : Result :=
  match x with
  | .next t => step t
  | _ => x

theorem test_withFetchWord_runs :
    ends (step (State.reset.withFetchWord 8 0x76)) (fun t => t.halted && t.pc == 1#16) = true ∧
    ends (step (State.reset.withFetchWord 16 0x3EA5)) (fun t => t.a == 0xA5#8 && t.pc == 2#16) = true := by decide

theorem test_v1_ld_b_c :
    ends (step { start 0x1000#16 [0x41#8] [] with c := 0x5A#8 })
      (fun t => t.b == 0x5A#8 && t.pc == 0x1001#16) = true := by decide

theorem test_v5_ld_a_ix_1 :
    ends (step { start 0x1000#16 [0xDD#8, 0x7E#8, 0xFF#8] [(0xFFFF#16, 0xAB#8)] with ix := 0x0000#16 })
      (fun t => t.a == 0xAB#8 && t.pc == 0x1003#16) = true := by decide

theorem test_v7_ld_ix_128_55h :
    ends (step { start 0x1000#16 [0xDD#8, 0x36#8, 0x80#8, 0x55#8] [] with ix := 0x2080#16 })
      (fun t => t.pc == 0x1004#16 && t.peek 0x2000#16 == 0x55#8) = true := by decide

theorem test_v12_ld_a_i :
    ends (step { start 0x1000#16 [0xED#8, 0x57#8] [] with
        i := 0x80#8, iff1 := false, iff2 := true, f := six 0b001011#6 })
      (fun t => t.a == 0x80#8 && t.pc == 0x1002#16 && bits t.f == 0b100101#6) = true := by decide

theorem test_v14_ld_a_r :
    ends (step { start 0x1000#16 [0xED#8, 0x5F#8] [] with r := 0x7F#8, iff1 := true, iff2 := true })
      (fun t => t.a == 0x01#8 && t.r == 0x01#8 && t.pc == 0x1002#16 && bits t.f == 0b000100#6) = true := by decide

theorem test_v21_ld_hl_ffffh :
    ends (step (start 0x1000#16 [0x2A#8, 0xFF#8, 0xFF#8] [(0x0000#16, 0x12#8), (0xFFFF#16, 0x34#8)]))
      (fun t => t.hl == 0x1234#16 && t.pc == 0x1003#16) = true := by decide

theorem test_v24_ld_ffffh_hl :
    ends (step { start 0x1000#16 [0x22#8, 0xFF#8, 0xFF#8] [] with h := 0xBE#8, l := 0xEF#8 })
      (fun t => t.pc == 0x1003#16 && t.peek 0xFFFF#16 == 0xEF#8 && t.peek 0x0000#16 == 0xBE#8) = true := by decide

theorem test_v30_push_af :
    ends (step { start 0x1000#16 [0xF5#8] [] with a := 0x12#8, sp := 0x0001#16, f := Flags.ofByte 0xFF#8 })
      (fun t => t.sp == 0xFFFF#16 && t.pc == 0x1001#16 && t.peek 0x0000#16 == 0x12#8 &&
        t.peek 0xFFFF#16 == 0xFF#8) = true := by decide

theorem test_v31_pop_af :
    ends (step { start 0x1000#16 [0xF1#8] [(0x9000#16, 0x28#8), (0x9001#16, 0x77#8)] with sp := 0x9000#16 })
      (fun t => t.a == 0x77#8 && t.f.toByte == 0x28#8 && t.sp == 0x9002#16 &&
        t.pc == 0x1001#16) = true := by decide

theorem test_v38_ex_sp_hl :
    ends (step { start 0x1000#16 [0xE3#8] [(0x9000#16, 0xCD#8), (0x9001#16, 0xAB#8)] with
        sp := 0x9000#16, h := 0x12#8, l := 0x34#8 })
      (fun t => t.hl == 0xABCD#16 && t.sp == 0x9000#16 && t.pc == 0x1001#16 && t.peek 0x9000#16 == 0x34#8 &&
        t.peek 0x9001#16 == 0x12#8) = true := by decide

theorem test_v40_ldi :
    ends (step { start 0x1000#16 [0xED#8, 0xA0#8] [(0x2000#16, 0x5A#8)] with
        h := 0x20#8, l := 0x00#8, d := 0x30#8, e := 0x00#8, b := 0x00#8, c := 0x02#8, f := six 0b110001#6 })
      (fun t => t.hl == 0x2001#16 && t.de == 0x3001#16 && t.bc == 0x0001#16 && t.pc == 0x1002#16 &&
        bits t.f == 0b110101#6 && t.peek 0x3000#16 == 0x5A#8) = true := by decide

theorem test_v42_ldd :
    ends (step { start 0x1000#16 [0xED#8, 0xA8#8] [(0x0000#16, 0x77#8)] with
        h := 0x00#8, l := 0x00#8, d := 0x00#8, e := 0x00#8, b := 0x00#8, c := 0x00#8 })
      (fun t => t.hl == 0xFFFF#16 && t.de == 0xFFFF#16 && t.bc == 0xFFFF#16 && t.pc == 0x1002#16 &&
        bits t.f == 0b000100#6) = true := by decide

theorem test_v43_ldir :
    ends (step { start 0x1000#16 [0xED#8, 0xB0#8] [(0x2000#16, 0x01#8), (0x2001#16, 0x02#8), (0x2002#16, 0x03#8)] with
        h := 0x20#8, l := 0x00#8, d := 0x30#8, e := 0x00#8, b := 0x00#8, c := 0x03#8 })
      (fun t => t.hl == 0x2001#16 && t.de == 0x3001#16 && t.bc == 0x0002#16 && t.pc == 0x1000#16 &&
        bits t.f == 0b000100#6 && t.peek 0x3000#16 == 0x01#8 && t.peek 0x3001#16 == 0x00#8 &&
        t.peek 0x3002#16 == 0x00#8) = true := by decide

theorem test_v47_cpi :
    ends (step { start 0x1000#16 [0xED#8, 0xA1#8] [(0x2000#16, 0x40#8)] with
        a := 0x40#8, h := 0x20#8, l := 0x00#8, b := 0x00#8, c := 0x05#8, f := six 0b000001#6 })
      (fun t => t.a == 0x40#8 && t.hl == 0x2001#16 && t.bc == 0x0004#16 && t.pc == 0x1002#16 &&
        bits t.f == 0b010111#6) = true := by decide

theorem test_v48_cpi :
    ends (step { start 0x1000#16 [0xED#8, 0xA1#8] [(0x2000#16, 0x01#8)] with
        a := 0x10#8, h := 0x20#8, l := 0x00#8, b := 0x00#8, c := 0x01#8 })
      (fun t => t.hl == 0x2001#16 && t.bc == 0x0000#16 && t.pc == 0x1002#16 &&
        bits t.f == 0b001010#6) = true := by decide

theorem test_v52_add_a_b :
    ends (step { start 0x1000#16 [0x80#8] [] with a := 0x7F#8, b := 0x01#8 })
      (fun t => t.a == 0x80#8 && t.pc == 0x1001#16 && bits t.f == 0b101100#6) = true := by decide

theorem test_v53_add_a_b :
    ends (step { start 0x1000#16 [0x80#8] [] with a := 0x80#8, b := 0x80#8 })
      (fun t => t.a == 0x00#8 && t.pc == 0x1001#16 && bits t.f == 0b010101#6) = true := by decide

theorem test_v57_adc_a_ffh :
    ends (step { start 0x1000#16 [0xCE#8, 0xFF#8] [] with a := 0x00#8, f := six 0b000001#6 })
      (fun t => t.a == 0x00#8 && t.pc == 0x1002#16 && bits t.f == 0b011001#6) = true := by decide

theorem test_v58_sub_b :
    ends (step { start 0x1000#16 [0x90#8] [] with a := 0x00#8, b := 0x01#8 })
      (fun t => t.a == 0xFF#8 && t.pc == 0x1001#16 && bits t.f == 0b101011#6) = true := by decide

theorem test_v59_sub_01h :
    ends (step { start 0x1000#16 [0xD6#8, 0x01#8] [] with a := 0x80#8 })
      (fun t => t.a == 0x7F#8 && t.pc == 0x1002#16 && bits t.f == 0b001110#6) = true := by decide

theorem test_v62_sbc_a_00h :
    ends (step { start 0x1000#16 [0xDE#8, 0x00#8] [] with a := 0x00#8, f := six 0b000001#6 })
      (fun t => t.a == 0xFF#8 && t.pc == 0x1002#16 && bits t.f == 0b101011#6) = true := by decide

theorem test_v64_and_b :
    ends (step { start 0x1000#16 [0xA0#8] [] with a := 0xF0#8, b := 0x3C#8, f := six 0b000011#6 })
      (fun t => t.a == 0x30#8 && t.pc == 0x1001#16 && bits t.f == 0b001100#6) = true := by decide

theorem test_v66_or_hl :
    ends (step { start 0x1000#16 [0xB6#8] [(0x2000#16, 0x80#8)] with
        a := 0x01#8, h := 0x20#8, l := 0x00#8, f := six 0b001011#6 })
      (fun t => t.a == 0x81#8 && t.pc == 0x1001#16 && bits t.f == 0b100100#6) = true := by decide

theorem test_v68_xor_a :
    ends (step { start 0x1000#16 [0xAF#8] [] with a := 0xA5#8, f := six 0b111111#6 })
      (fun t => t.a == 0x00#8 && t.pc == 0x1001#16 && bits t.f == 0b010100#6) = true := by decide

theorem test_v71_cp_80h :
    ends (step { start 0x1000#16 [0xFE#8, 0x80#8] [] with a := 0x7F#8 })
      (fun t => t.a == 0x7F#8 && t.pc == 0x1002#16 && bits t.f == 0b100111#6) = true := by decide

theorem test_v73_inc_a :
    ends (step { start 0x1000#16 [0x3C#8] [] with a := 0x7F#8, f := six 0b000001#6 })
      (fun t => t.a == 0x80#8 && t.pc == 0x1001#16 && bits t.f == 0b101101#6) = true := by decide

theorem test_v76_inc_iy_2 :
    ends (step { start 0x1000#16 [0xFD#8, 0x34#8, 0xFE#8] [(0x2000#16, 0xFE#8)] with iy := 0x2002#16 })
      (fun t => t.pc == 0x1003#16 && bits t.f == 0b100000#6 && t.peek 0x2000#16 == 0xFF#8) = true := by decide

theorem test_v77_dec_a :
    ends (step { start 0x1000#16 [0x3D#8] [] with a := 0x80#8 })
      (fun t => t.a == 0x7F#8 && t.pc == 0x1001#16 && bits t.f == 0b001110#6) = true := by decide

theorem test_v81_add_hl_hl :
    ends (step { start 0x1000#16 [0x29#8] [] with h := 0x80#8, l := 0x00#8, f := six 0b110100#6 })
      (fun t => t.hl == 0x0000#16 && t.pc == 0x1001#16 && bits t.f == 0b110101#6) = true := by decide

theorem test_v85_add_iy_iy :
    ends (step { start 0x1000#16 [0xFD#8, 0x29#8] [] with iy := 0x4000#16 })
      (fun t => t.iy == 0x8000#16 && t.pc == 0x1002#16 && bits t.f == 0b000000#6) = true := by decide

theorem test_v87_adc_hl_de :
    ends (step { start 0x1000#16 [0xED#8, 0x5A#8] [] with
        h := 0x7F#8, l := 0xFF#8, d := 0x00#8, e := 0x00#8, f := six 0b000001#6 })
      (fun t => t.hl == 0x8000#16 && t.pc == 0x1002#16 && bits t.f == 0b101100#6) = true := by decide

theorem test_v89_sbc_hl_de :
    ends (step { start 0x1000#16 [0xED#8, 0x52#8] [] with h := 0x80#8, l := 0x00#8, d := 0x00#8, e := 0x01#8 })
      (fun t => t.hl == 0x7FFF#16 && t.pc == 0x1002#16 && bits t.f == 0b001110#6) = true := by decide

theorem test_v92_inc_bc :
    ends (step { start 0x1000#16 [0x03#8] [] with b := 0xFF#8, c := 0xFF#8, f := six 0b000000#6 })
      (fun t => t.bc == 0x0000#16 && t.pc == 0x1001#16 && bits t.f == 0b000000#6) = true := by decide

theorem test_v97_daa :
    ends (step { start 0x1000#16 [0x27#8] [] with a := 0x9A#8, f := six 0b000000#6 })
      (fun t => t.a == 0x00#8 && t.pc == 0x1001#16 && bits t.f == 0b011101#6) = true := by decide

theorem test_v98_daa :
    ends (step { start 0x1000#16 [0x27#8] [] with a := 0x0F#8, f := six 0b001000#6 })
      (fun t => t.a == 0x15#8 && t.pc == 0x1001#16 && bits t.f == 0b001000#6) = true := by decide

theorem test_v99_daa :
    ends (step { start 0x1000#16 [0x27#8] [] with a := 0xFF#8, f := six 0b000010#6 })
      (fun t => t.a == 0x99#8 && t.pc == 0x1001#16 && bits t.f == 0b100111#6) = true := by decide

theorem test_v100_cpl :
    ends (step { start 0x1000#16 [0x2F#8] [] with a := 0xB4#8, f := six 0b110101#6 })
      (fun t => t.a == 0x4B#8 && t.pc == 0x1001#16 && bits t.f == 0b111111#6) = true := by decide

theorem test_v102_neg :
    ends (step { start 0x1000#16 [0xED#8, 0x44#8] [] with a := 0x80#8 })
      (fun t => t.a == 0x80#8 && t.pc == 0x1002#16 && bits t.f == 0b100111#6) = true := by decide

theorem test_v105_ccf :
    ends (step { start 0x1000#16 [0x3F#8] [] with f := six 0b111110#6 })
      (fun t => t.pc == 0x1001#16 && bits t.f == 0b110101#6) = true := by decide

theorem test_v106_scf :
    ends (step { start 0x1000#16 [0x37#8] [] with f := six 0b111110#6 })
      (fun t => t.pc == 0x1001#16 && bits t.f == 0b110101#6) = true := by decide

theorem test_v108_halt :
    ends (step (start 0x1000#16 [0x76#8] []))
      (fun t => t.halted == true && t.r == 0x01#8 && t.pc == 0x1001#16) = true := by decide

theorem test_v109_di :
    ends (step { start 0x1000#16 [0xF3#8] [] with iff1 := true, iff2 := true })
      (fun t => t.iff1 == false && t.iff2 == false && t.pc == 0x1001#16) = true := by decide

theorem test_v113_im_2 :
    ends (step (start 0x1000#16 [0xED#8, 0x5E#8] []))
      (fun t => t.im == .im2 && t.pc == 0x1002#16) = true := by decide

theorem test_v114_rlca :
    ends (step { start 0x1000#16 [0x07#8] [] with a := 0x80#8, f := six 0b110100#6 })
      (fun t => t.a == 0x01#8 && t.pc == 0x1001#16 && bits t.f == 0b110101#6) = true := by decide

theorem test_v117_rra :
    ends (step { start 0x1000#16 [0x1F#8] [] with a := 0x01#8, f := six 0b000001#6 })
      (fun t => t.a == 0x80#8 && t.pc == 0x1001#16 && bits t.f == 0b000001#6) = true := by decide

theorem test_v119_rlc_hl :
    ends (step { start 0x1000#16 [0xCB#8, 0x06#8] [(0x2000#16, 0x00#8)] with
        h := 0x20#8, l := 0x00#8, f := six 0b000001#6 })
      (fun t => t.pc == 0x1002#16 && bits t.f == 0b010100#6 && t.peek 0x2000#16 == 0x00#8) = true := by decide

theorem test_v121_rl_ix_1 :
    ends (step { start 0x1000#16 [0xDD#8, 0xCB#8, 0xFF#8, 0x16#8] [(0x2000#16, 0x80#8)] with ix := 0x2001#16 })
      (fun t => t.pc == 0x1004#16 && bits t.f == 0b010101#6 && t.peek 0x2000#16 == 0x00#8) = true := by decide

theorem test_v126_sra_h :
    ends (step { start 0x1000#16 [0xCB#8, 0x2C#8] [] with h := 0x81#8 })
      (fun t => t.h == 0xC0#8 && t.pc == 0x1002#16 && bits t.f == 0b100101#6) = true := by decide

theorem test_v128_srl_l :
    ends (step { start 0x1000#16 [0xCB#8, 0x3D#8] [] with l := 0x81#8 })
      (fun t => t.l == 0x40#8 && t.pc == 0x1002#16 && bits t.f == 0b000001#6) = true := by decide

theorem test_v131_rld :
    ends (step { start 0x1000#16 [0xED#8, 0x6F#8] [(0x2000#16, 0x31#8)] with
        a := 0x7A#8, h := 0x20#8, l := 0x00#8, f := six 0b000001#6 })
      (fun t => t.a == 0x73#8 && t.pc == 0x1002#16 && bits t.f == 0b000001#6 &&
        t.peek 0x2000#16 == 0x1A#8) = true := by decide

theorem test_v132_rrd :
    ends (step { start 0x1000#16 [0xED#8, 0x67#8] [(0x2000#16, 0x20#8)] with
        a := 0x84#8, h := 0x20#8, l := 0x00#8 })
      (fun t => t.a == 0x80#8 && t.pc == 0x1002#16 && bits t.f == 0b100000#6 &&
        t.peek 0x2000#16 == 0x42#8) = true := by decide

theorem test_v134_bit_7_h :
    ends (step { start 0x1000#16 [0xCB#8, 0x7C#8] [] with h := 0x80#8, f := six 0b000001#6 })
      (fun t => t.h == 0x80#8 && t.pc == 0x1002#16 && !t.f.z && t.f.h && !t.f.n && t.f.c) = true := by decide

theorem test_v137_bit_0_iy_128 :
    ends (step { start 0x1000#16 [0xFD#8, 0xCB#8, 0x80#8, 0x46#8] [(0x2000#16, 0x00#8)] with iy := 0x2080#16 })
      (fun t => t.pc == 0x1004#16 && t.f.z && t.f.h && !t.f.n && !t.f.c) = true := by decide

theorem test_v140_set_7_ix_127 :
    ends (step { start 0x1000#16 [0xDD#8, 0xCB#8, 0x7F#8, 0xFE#8] [] with ix := 0x2000#16 })
      (fun t => t.pc == 0x1004#16 && t.peek 0x207F#16 == 0x80#8) = true := by decide

theorem test_v143_res_3_iy_1 :
    ends (step { start 0x1000#16 [0xFD#8, 0xCB#8, 0x01#8, 0x9E#8] [(0x2001#16, 0x0F#8)] with iy := 0x2000#16 })
      (fun t => t.pc == 0x1004#16 && t.peek 0x2001#16 == 0x07#8) = true := by decide

theorem test_v145_in_a_feh :
    ends (step { answering 0x1F#8 (start 0x1000#16 [0xDB#8, 0xFE#8] []) with a := 0x7F#8, f := six 0b111111#6 })
      (fun t => t.a == 0x1F#8 && t.pc == 0x1002#16 && bits t.f == 0b111111#6 &&
        t.plat.busLog == [.ioRead 0x7FFE#16 0x1F#8]) = true := by decide

theorem test_v146_in_a_c :
    ends (step { answering 0x00#8 (start 0x1000#16 [0xED#8, 0x78#8] []) with
        b := 0x12#8, c := 0x34#8, f := six 0b000001#6 })
      (fun t => t.a == 0x00#8 && t.pc == 0x1002#16 && bits t.f == 0b010101#6 &&
        t.plat.busLog == [.ioRead 0x1234#16 0x00#8]) = true := by decide

theorem test_v149_ini :
    ends (step { answering 0x3C#8 (start 0x1000#16 [0xED#8, 0xA2#8] []) with
        b := 0x02#8, c := 0x10#8, h := 0x20#8, l := 0x00#8 })
      (fun t => t.bc == 0x0110#16 && t.hl == 0x2001#16 && t.pc == 0x1002#16 && !t.f.z &&
        t.peek 0x2000#16 == 0x3C#8 && t.plat.busLog == [.ioRead 0x0210#16 0x3C#8]) = true := by decide

theorem test_v152_indr :
    ends (step { answering 0x01#8 (start 0x1000#16 [0xED#8, 0xBA#8] []) with
        b := 0x00#8, c := 0x10#8, h := 0x20#8, l := 0x00#8 })
      (fun t => t.bc == 0xFF10#16 && t.hl == 0x1FFF#16 && t.pc == 0x1000#16 && !t.f.z) = true := by decide

theorem test_v154_out_c_a :
    ends (step { start 0x1000#16 [0xED#8, 0x79#8] [] with a := 0x55#8, b := 0x80#8, c := 0x01#8 })
      (fun t => t.pc == 0x1002#16 && t.plat.busLog == [.ioWrite 0x8001#16 0x55#8]) = true := by decide

theorem test_v156_outi :
    ends (step { start 0x1000#16 [0xED#8, 0xA3#8] [(0x2000#16, 0x99#8)] with
        b := 0x01#8, c := 0x20#8, h := 0x20#8, l := 0x00#8 })
      (fun t => t.bc == 0x0020#16 && t.hl == 0x2001#16 && t.pc == 0x1002#16 && t.f.z &&
        t.plat.busLog == [.ioWrite 0x0020#16 0x99#8]) = true := by decide

theorem test_v158_outd :
    ends (step { start 0x1000#16 [0xED#8, 0xAB#8] [(0x2000#16, 0x77#8)] with
        b := 0x02#8, c := 0x20#8, h := 0x20#8, l := 0x00#8 })
      (fun t => t.bc == 0x0120#16 && t.hl == 0x1FFF#16 && t.pc == 0x1002#16 && !t.f.z &&
        t.plat.busLog == [.ioWrite 0x0120#16 0x77#8]) = true := by decide

theorem test_v161_jp_nz_8000h :
    ends (step { start 0x1000#16 [0xC2#8, 0x00#8, 0x80#8] [] with f := six 0b010000#6 })
      (fun t => t.pc == 0x1003#16) = true := by decide

theorem test_v166_jp_pe_8000h :
    ends (step { start 0x1000#16 [0xEA#8, 0x00#8, 0x80#8] [] with f := six 0b000100#6 })
      (fun t => t.pc == 0x8000#16) = true := by decide

theorem test_v171_jr_126 :
    ends (step (start 0x1000#16 [0x18#8, 0x80#8] []))
      (fun t => t.pc == 0x0F82#16) = true := by decide

theorem test_v172_jr_fffeh_2_16 :
    ends (step (start 0xFFFE#16 [0x18#8, 0x10#8] []))
      (fun t => t.pc == 0x0010#16) = true := by decide

theorem test_v178_djnz :
    ends (step { start 0x1000#16 [0x10#8, 0xFE#8] [] with b := 0x01#8, f := six 0b111111#6 })
      (fun t => t.b == 0x00#8 && t.pc == 0x1002#16 && bits t.f == 0b111111#6) = true := by decide

theorem test_v179_djnz :
    ends (step { start 0x1000#16 [0x10#8, 0xFE#8] [] with b := 0x00#8 })
      (fun t => t.b == 0xFF#8 && t.pc == 0x1000#16) = true := by decide

theorem test_v180_jp_hl :
    ends (step { start 0x1000#16 [0xE9#8] [] with h := 0x43#8, l := 0x21#8 })
      (fun t => t.pc == 0x4321#16) = true := by decide

theorem test_v184_call_8000h :
    ends (step { start 0x1000#16 [0xCD#8, 0x00#8, 0x80#8] [] with sp := 0x0000#16 })
      (fun t => t.sp == 0xFFFE#16 && t.pc == 0x8000#16 && t.peek 0xFFFF#16 == 0x10#8 &&
        t.peek 0xFFFE#16 == 0x03#8) = true := by decide

theorem test_v185_call_nz_8000h :
    ends (step { start 0x1000#16 [0xC4#8, 0x00#8, 0x80#8] [] with sp := 0x9000#16, f := six 0b010000#6 })
      (fun t => t.sp == 0x9000#16 && t.pc == 0x1003#16) = true := by decide

theorem test_v188_ret_nz :
    ends (step { start 0x1000#16 [0xC0#8] [(0x8FFE#16, 0x03#8), (0x8FFF#16, 0x10#8)] with
        sp := 0x8FFE#16, f := six 0b010000#6 })
      (fun t => t.sp == 0x8FFE#16 && t.pc == 0x1001#16) = true := by decide

theorem test_v190_reti :
    ends (step { start 0x1000#16 [0xED#8, 0x4D#8] [(0x8FFE#16, 0x34#8), (0x8FFF#16, 0x12#8)] with
        sp := 0x8FFE#16, iff1 := false, iff2 := true })
      (fun t => t.sp == 0x9000#16 && t.iff1 == false && t.iff2 == true && t.pc == 0x1234#16) = true := by decide

theorem test_v191_retn :
    ends (step { start 0x1000#16 [0xED#8, 0x45#8] [(0x8FFE#16, 0x34#8), (0x8FFF#16, 0x12#8)] with
        sp := 0x8FFE#16, iff1 := false, iff2 := true })
      (fun t => t.sp == 0x9000#16 && t.iff1 == true && t.iff2 == true && t.pc == 0x1234#16) = true := by decide

theorem test_v192_rst_38h :
    ends (step { start 0x1000#16 [0xFF#8] [] with sp := 0x9000#16 })
      (fun t => t.sp == 0x8FFE#16 && t.pc == 0x0038#16 && t.peek 0x8FFF#16 == 0x10#8 &&
        t.peek 0x8FFE#16 == 0x01#8) = true := by decide

theorem test_v133_refused : refuses (step (start 0x1000#16 [0xCB#8, 0x30#8] [])) .undocumentedOpcode = true := by decide

theorem test_v144_refused : refuses (step (start 0x1000#16 [0xDD#8, 0xCB#8, 0x00#8, 0xC0#8] [])) .undocumentedOpcode = true := by decide

theorem test_v199_refused : refuses (step (start 0x1000#16 [0xFD#8, 0xFD#8] [])) .undocumentedOpcode = true := by decide

/-- V36: all eight bits of F move. -/
theorem test_v36_ex_af_af :
    ends (step { start 0x1000#16 [0x08#8] [] with
        a := 0x12#8, altA := 0x34#8, altF := Flags.ofByte 0xFF#8, f := Flags.ofByte 0x01#8 })
      (fun t => t.a == 0x34#8 && t.f.toByte == 0xFF#8 && t.altA == 0x12#8 && t.altF.toByte == 0x01#8) = true := by decide

/-- V37. -/
theorem test_v37_exx :
    ends (step { start 0x1000#16 [0xD9#8] [] with
        c := 0x01#8, e := 0x02#8, l := 0x03#8, altB := 0xAA#8, altC := 0xBB#8, altD := 0xCC#8, altE := 0xDD#8, altH := 0xEE#8,
        altL := 0xFF#8 })
      (fun t => t.bc == 0xAABB#16 && t.de == 0xCCDD#16 && t.hl == 0xEEFF#16 && t.altC == 0x01#8 && t.altE == 0x02#8 &&
        t.altL == 0x03#8) = true := by decide

/-! RESET, interrupts, HALT: the vectors X1 to X12. -/

theorem test_x1_reset :
    ends (step { State.reset with pc := 0x1234#16, i := 0x55#8, r := 0xAA#8, iff1 := true, iff2 := true, im := .im2,
                                  halted := true, resetLow := true })
      (fun t => t.pc == 0 && t.i == 0 && t.r == 0 && !t.iff1 && !t.iff2 && t.im == .im0 && !t.halted) = true := by decide

/-- An entry of the schedule: INT low with a byte driven. -/
def intSample (v : Byte) : Sample := { int := true, data := some v, nmiEdge := false, reset := false }

/-- An entry of the schedule: an NMI edge, INT low as well if asked. -/
def nmiSample (int : Bool) : Sample := { int := int, data := none, nmiEdge := true, reset := false }

/-- The start of X2 to X6: a NOP at 1000H, SP = 9000H, interrupts enabled. -/
def xStart (m : IntMode) (x : Sample) : State :=
  { start 0x1000#16 [0x00#8] [(0x8010#16, 0x34#8), (0x8011#16, 0x12#8), (0x80FF#16, 0x78#8), (0x8100#16, 0x56#8)] with
    sp := 0x9000#16, iff1 := true, iff2 := true, im := m, i := 0x80#8, schedule := [x] }

/-- 1001H has been pushed below 9000H. -/
def pushed1001 (t : State) : Bool := t.sp == 0x8FFE#16 && t.peek 0x8FFF#16 == 0x10#8 && t.peek 0x8FFE#16 == 0x01#8

theorem test_x2_nmi :
    ends (andThen (step (xStart .im0 (nmiSample false))))
      (fun t => t.pc == 0x0066#16 && !t.iff1 && t.iff2 && t.r == 0x02#8 && pushed1001 t) = true := by decide

theorem test_x3_int_mode_1 :
    ends (andThen (step (xStart .im1 (intSample 0x99#8))))
      (fun t => t.pc == 0x0038#16 && !t.iff1 && !t.iff2 && t.r == 0x02#8 && pushed1001 t) = true := by decide

theorem test_x4_int_mode_0 :
    ends (andThen (step (xStart .im0 (intSample 0xD7#8))))
      (fun t => t.pc == 0x0010#16 && !t.iff1 && !t.iff2 && pushed1001 t) = true ∧
    refuses (andThen (step (xStart .im0 (intSample 0xCD#8)))) .mode0NotRst = true := by decide

theorem test_x5_int_mode_2 :
    ends (andThen (step (xStart .im2 (intSample 0x10#8)))) (fun t => t.pc == 0x1234#16 && !t.iff1 && pushed1001 t) = true ∧
    ends (andThen (step { xStart .im2 (intSample 0x10#8) with im2Indirect := false }))
      (fun t => t.pc == 0x8010#16 && pushed1001 t) = true ∧
    ends (andThen (step (xStart .im2 (intSample 0xFF#8)))) (fun t => t.pc == 0x5678#16) = true := by decide

theorem test_x6_int_disabled :
    ends (andThen (step { xStart .im1 (intSample 0x00#8) with iff1 := false, iff2 := false }))
      (fun t => t.pc == 0x1002#16 && t.sp == 0x9000#16) = true := by decide

/-- X7: INT low from the first sampling point on; accepted after the instruction that follows EI. -/
theorem test_x7_ei_delay :
    ends (andThen (andThen (step { start 0x1000#16 [0xFB#8, 0x00#8, 0x00#8] [] with
        sp := 0x9000#16, im := .im1, schedule := [intSample 0x00#8, intSample 0x00#8] })))
      (fun t => t.pc == 0x0038#16 && !t.iff1 && t.peek 0x8FFF#16 == 0x10#8 && t.peek 0x8FFE#16 == 0x02#8) = true := by decide

theorem test_x8_leaving_halt :
    ends (andThen (step { start 0x1001#16 [0x3C#8] [] with
        sp := 0x9000#16, im := .im1, iff1 := true, iff2 := true, halted := true, r := 0x02#8, schedule := [intSample 0x00#8] }))
      (fun t => !t.halted && t.pc == 0x0038#16 && t.r == 0x04#8 && pushed1001 t) = true := by decide

theorem test_x9_di_halt :
    ends (andThen (step { start 0x1000#16 [0x76#8] [] with schedule := [intSample 0x00#8, intSample 0x00#8] }))
      (fun t => t.halted && t.pc == 0x1001#16 && t.r == 0x02#8) = true := by decide

theorem test_x10_int_in_ldir :
    ends (andThen (step { start 0x1000#16 [0xED#8, 0xB0#8] [(0x2000#16, 0x01#8)] with
        h := 0x20#8, d := 0x30#8, c := 0x03#8, sp := 0x9000#16, im := .im1, iff1 := true, iff2 := true,
        schedule := [intSample 0x00#8] }))
      (fun t => t.pc == 0x0038#16 && t.bc == 0x0002#16 && t.peek 0x3000#16 == 0x01#8 && t.peek 0x8FFF#16 == 0x10#8 &&
        t.peek 0x8FFE#16 == 0x00#8) = true := by decide

theorem test_x11_nmi_before_int :
    ends (andThen (step (xStart .im1 (nmiSample true))))
      (fun t => t.pc == 0x0066#16 && !t.iff1 && t.iff2 && t.intLow) = true := by decide

/-- X12 without the P/V bit, which is free. -/
theorem test_x12_ld_a_i_interrupted :
    ends (andThen (step { start 0x1000#16 [0xED#8, 0x57#8] [] with
        i := 0x12#8, sp := 0x9000#16, im := .im1, iff1 := true, iff2 := true, schedule := [intSample 0x00#8] }))
      (fun t => t.a == 0x12#8 && t.pc == 0x0038#16 && !t.iff1 && !t.iff2) = true := by decide

/-! Memory that is not RAM, another bus master, T states. -/

/-- R85: a write to ROM changes nothing and is a bus event; the region ends before 2001H. -/
theorem test_write_to_rom :
    ends (step { start 0x1000#16 [0x77#8] [(0x2000#16, 0x11#8)] with
        a := 0x99#8, h := 0x20#8,
        plat := { (start 0x1000#16 [0x77#8] [(0x2000#16, 0x11#8)]).plat with
          memMap := [{ base := 0x2000, size := 1, kind := .rom }] } })
      (fun t => t.peek 0x2000#16 == 0x11#8 && t.plat.busLog == [.memWrite 0x2000#16 0x99#8]) = true := by decide

/-- R88: another master writes between the fetch and the read of LD A,(HL). -/
theorem test_master_between_cycles :
    ends (step { start 0x1000#16 [0x7E#8] [] with
        h := 0x20#8, plat := { (start 0x1000#16 [0x7E#8] []).plat with grants := [[.memWrite 0x2000#16 0x5A#8]] } })
      (fun t => t.a == 0x5A#8 && t.plat.grants == []) = true := by decide

/-- R496: INC (HL) takes 11 T states (S14), LDIR 21 when it repeats. -/
theorem test_t_states :
    ends (step (start 0x1000#16 [0x34#8] [])) (fun t => t.clock == 11) = true ∧
    ends (step { start 0x1000#16 [0xED#8, 0xB0#8] [] with c := 2 }) (fun t => t.clock == 21) = true := by decide

/-! The assembler: the source's examples S5 to S10 and S4.4, S4.5. -/

theorem test_assemble_line_format :
    (assemble ["LP: ADD A,A ; 2 x A", "  DEC B", "  HALT"]).toOption =
      some [(0#16, some 0x87#8), (1#16, some 0x05#8), (2#16, some 0x76#8)] := by decide

theorem test_assemble_equ :
    (assemble ["SUM: EQU 1900H", "COUNT: EQU 10H", " ADD A,COUNT", " LD (SUM),A"]).toOption.map (List.map Prod.snd) =
      some [some 0xC6#8, some 0x10#8, some 0x32#8, some 0x00#8, some 0x19#8] := by decide

theorem test_assemble_define :
    (assemble ["CONST: EQU 52H", "ADRS: EQU 1900H", " ORG 1951H", "TABLE: DEFW ADRS", " DEFB CONST"]).toOption =
      some [(0x1951#16, some 0x00#8), (0x1952#16, some 0x19#8), (0x1953#16, some 0x52#8)] := by decide

theorem test_assemble_reserve :
    (assemble [" ORG 1800H", " DEFS 2", " LD HL,10H"]).toOption =
      some [(0x1800#16, none), (0x1801#16, none), (0x1802#16, some 0x21#8), (0x1803#16, some 0x10#8),
        (0x1804#16, some 0x00#8)] := by decide

theorem test_assemble_expansion :
    (assemble ["REF: MACRO", " LD H,(IX+1)", " INC IY", " ENDM", " REF", " END", " no line"]).toOption.map
        (List.map Prod.snd) =
      some [some 0xDD#8, some 0x66#8, some 0x01#8, some 0xFD#8, some 0x23#8] := by decide

/-- Parentheses mean the contents of a location (R129), so `IM (1)` is no form of IM, nor is a register a displacement. -/
theorem test_assemble_refuses_forms :
    (assemble [" IM 1"]).toOption.map (List.map Prod.snd) = some [some 0xED#8, some 0x56#8] ∧
    (assemble [" IM (1)"]).toOption = none ∧ (assemble ["A: NOP", " LD B,(IX+A)"]).toOption = none ∧
    (assemble ["FOO BAR: NOP"]).toOption = none ∧ (assemble ["$: NOP"]).toOption = none := by decide

theorem test_assemble_relative :
    (assemble [" JR 10H"]).toOption.map (List.map Prod.snd) = some [some 0x18#8, some 0x0E#8] ∧
    (assemble [" JR $+12H"]).toOption.map (List.map Prod.snd) = some [some 0x18#8, some 0x10#8] ∧
    (assemble [" JR $+130"]).toOption = none := by decide

/-! A concrete state and operands that meet the hypotheses of each statement of `Obligations.lean`, clause by clause. -/

/-- NOP at 1000H, all RAM, nobody else on the bus, a stack at 0001H. -/
def plain : State := { start 0x1000#16 [0x00#8] [] with sp := 0x0001#16 }

/-- Each kind of memory: ROM 0000H to 0FFFH, a device at 2000H, nothing at FFFFH, RAM elsewhere. -/
def mapped : State :=
  { plain with plat := { Platform.empty with
      memMap := [{ base := 0, size := 0x1000, kind := .rom }, { base := 0x2000, size := 1, kind := .device },
        { base := 0xFFFF, size := 1, kind := .unmapped }] } }

theorem test_meets_ResetSignalStep : { plain with resetLow := true }.resetLow = true := rfl

theorem test_meets_DecodeReadsEncode :
    (Instr.bitR 0 .b).wellFormed = true ∧ (Instr.bitR 7 .a).wellFormed = true ∧ (Instr.rstP 0x00#8).wellFormed = true ∧
    (Instr.rstP 0x38#8).wellFormed = true ∧ Instr.nop.wellFormed = true := by decide

theorem test_meets_EncodeRebuildsDecoded :
    decodeBytes [0xDD#8, 0xCB#8, 0x85#8, 0xBE#8] = .ok (.resAtIx 7 0x85#8) 4 ∧ decodeBytes [0x00#8, 0xFF#8] = .ok .nop 1 := by
  decide

/-- The values where each clause begins and ends. -/
theorem test_meets_UndocumentedEncodings :
    decodeBytes [0xED#8, 0x00#8] = .undocumented ∧ decodeBytes [0xCB#8, 0x30#8] = .undocumented ∧
    decodeBytes [0xCB#8, 0x37#8] = .undocumented ∧ decodeBytes [0xCB#8, 0x2F#8] = .ok (.sraR .a) 2 ∧
    decodeBytes [0xCB#8, 0x38#8] = .ok (.srlR .b) 2 ∧ decodeBytes [0xED#8, 0xBC#8] = .undocumented ∧
    decodeBytes [0xFD#8, 0x08#8] = .undocumented ∧ decodeBytes [0xFD#8, 0xFA#8] = .undocumented ∧
    decodeBytes [0xDD#8, 0xCB#8, 0x00#8, 0x07#8] = .undocumented ∧ (0x08#8 : Byte) ≠ 0xCB#8 := by decide

theorem test_meets_StepRunsInstruction :
    (Instr.ldAtIxN 0x80#8 0x55#8).wellFormed = true ∧ Running (start 0xFFFE#16 [0xDD#8, 0x36#8, 0x80#8, 0x55#8] []) ∧
    Quiet (start 0xFFFE#16 [0xDD#8, 0x36#8, 0x80#8, 0x55#8] []) ∧
    HoldsAtPc (start 0xFFFE#16 [0xDD#8, 0x36#8, 0x80#8, 0x55#8] []) (.ldAtIxN 0x80#8 0x55#8) ∧
    ∃ t, exec (.ldAtIxN 0x80#8 0x55#8) ((start 0xFFFE#16 [0xDD#8, 0x36#8, 0x80#8, 0x55#8] []).fetched
      (.ldAtIxN 0x80#8 0x55#8)) = .next t := by
  unfold Running Quiet HoldsAtPc
  exact ⟨by decide, by decide, by decide, by decide, _, rfl⟩

theorem test_meets_UndocumentedStepRefused :
    Running (start 0x1000#16 [0xFD#8, 0xCB#8, 0x05#8, 0x36#8] []) ∧
    Quiet (start 0x1000#16 [0xFD#8, 0xCB#8, 0x05#8, 0x36#8] []) ∧ [0xFD#8, 0xCB#8, 0x05#8, 0x36#8].length ≤ 4 ∧
    decodeBytes [0xFD#8, 0xCB#8, 0x05#8, 0x36#8] = .undocumented ∧
    (∀ k : Nat, (h : k < [0xFD#8, 0xCB#8, 0x05#8, 0x36#8].length) →
      (start 0x1000#16 [0xFD#8, 0xCB#8, 0x05#8, 0x36#8] []).plat.backed (0x1000#16 + BitVec.ofNat 16 k) = true ∧
      (start 0x1000#16 [0xFD#8, 0xCB#8, 0x05#8, 0x36#8] []).peek (0x1000#16 + BitVec.ofNat 16 k) =
        [0xFD#8, 0xCB#8, 0x05#8, 0x36#8][k]) := by
  unfold Running Quiet
  exact ⟨by decide, by decide, by decide, by decide, by decide⟩

theorem test_meets_AccessByMemoryKind :
    Quiet mapped ∧ mapped.plat.kindAt 0x0000#16 = .rom ∧ mapped.plat.kindAt 0x0FFF#16 = .rom ∧
    mapped.plat.kindAt 0x1000#16 = .ram ∧ mapped.plat.kindAt 0x2000#16 = .device ∧ mapped.plat.kindAt 0x2001#16 = .ram ∧
    mapped.plat.kindAt 0xFFFF#16 = .unmapped ∧ (0x1000#16 : Word) ≠ 0x0FFF#16 := by
  unfold Quiet; decide

/-- The one hypothesis of the statements about instructions that access memory or a port. -/
theorem test_meets_LoadFromMemory : Quiet plain := rfl
theorem test_meets_StoreToMemory : Quiet mapped := rfl
theorem test_meets_StorePairToMemory : Quiet plain := rfl
theorem test_meets_PushWord : Quiet plain := rfl
theorem test_meets_ExchangeStackTop : Quiet plain := rfl
theorem test_meets_BlockTransfer : Quiet plain := rfl
theorem test_meets_BlockSearch : Quiet plain := rfl
theorem test_meets_AddToAccumulator : Quiet plain := rfl
theorem test_meets_SubtractAndCompare : Quiet plain := rfl
theorem test_meets_LogicAccumulator : Quiet plain := rfl
theorem test_meets_IncDecByte : Quiet plain := rfl
theorem test_meets_RotateShift : Quiet plain := rfl
theorem test_meets_RotateDigits : Quiet plain := rfl
theorem test_meets_TestBit : Quiet plain := rfl
theorem test_meets_SetResetBit : Quiet plain := rfl
theorem test_meets_InputOutputPort : Quiet plain := rfl
theorem test_meets_BlockInput : Quiet mapped := rfl
theorem test_meets_BlockOutput : Quiet mapped := rfl

theorem test_meets_LoadPairFromMemory :
    Quiet plain ∧ plain.plat.backed 0xFFFF#16 = true ∧ plain.plat.backed (0xFFFF#16 + 1) = true := by
  unfold Quiet; decide

theorem test_meets_PopWord :
    Quiet plain ∧ plain.plat.backed plain.sp = true ∧ plain.plat.backed (plain.sp + 1) = true := by
  unfold Quiet; decide

theorem test_meets_StackRoundTrip :
    Quiet plain ∧ plain.plat.kindAt (plain.sp - 1) = .ram ∧ plain.plat.kindAt (plain.sp - 2) = .ram := by
  unfold Quiet; decide

theorem test_meets_CallsAndRestarts : Quiet plain ∧ plain.f.holds .nz = true ∧ plain.f.holds .z = false := by
  unfold Quiet; decide

theorem test_meets_Returns : Quiet plain ∧ plain.f.holds .p = true ∧ plain.f.holds .m = false := by
  unfold Quiet; decide

/-- `plain` with 99 in A and a byte at an address. -/
def bcdAt (a : Word) (v : Byte) : State := { plain with a := 0x99#8, plat := plain.plat.place a [v] }

theorem test_meets_DecimalAdjustIsBcd :
    (99 < 100 ∧ 0 < 100 ∧ (bcdAt 0 0).a = bcdByte 99 ∧ { plain with a := 0x00#8 }.a = bcdByte 0) ∧
    (bcdAt 0 0).reg .a = bcdByte 99 ∧ 0x58#8 = bcdByte 58 ∧ 0x00#8 = bcdByte 0 ∧
    (bcdAt plain.hl 0x42#8).read (bcdAt plain.hl 0x42#8).hl = bcdByte 42 ∧
    (bcdAt (plain.ixd 0x80#8) 0x07#8).read ((bcdAt (plain.ixd 0x80#8) 0x07#8).ixd 0x80#8) = bcdByte 7 ∧
    (bcdAt (plain.iyd 0x7F#8) 0x99#8).read ((bcdAt (plain.iyd 0x7F#8) 0x99#8).iyd 0x7F#8) = bcdByte 99 := by
  decide

/-- `plain` with an NMI edge seen. -/
def withNmi : State := { plain with nmiPending := true }

/-- `plain` with INT low, interrupts enabled, a mode and a byte driven. -/
def withInt (m : IntMode) (v : Byte) : State :=
  { plain with intLow := true, iff1 := true, iff2 := true, im := m, intData := some v }

theorem test_meets_NmiAcceptance : withNmi.resetLow = false ∧ withNmi.nmiPending = true ∧ Quiet withNmi := by
  unfold Quiet; decide

theorem test_meets_NmiReturnRestores :
    withNmi.resetLow = false ∧ withNmi.nmiPending = true ∧ Quiet withNmi ∧ withNmi.plat.kindAt (withNmi.sp - 1) = .ram ∧
    withNmi.plat.kindAt (withNmi.sp - 2) = .ram := by
  unfold Quiet; decide

/-- The conditions of R447. -/
def Acceptable (s : State) : Prop :=
  s.intLow = true ∧ s.iff1 = true ∧ s.eiShadow = false ∧ s.nmiPending = false

theorem test_meets_IntAcceptanceRestart :
    (withInt .im1 0x00#8).resetLow = false ∧ Acceptable (withInt .im1 0x00#8) ∧ Quiet (withInt .im1 0x00#8) ∧
    (withInt .im1 0x00#8).im = .im1 ∧ (withInt .im1 0x00#8).plat.kindAt ((withInt .im1 0x00#8).sp - 1) = .ram ∧
    (withInt .im1 0x00#8).plat.kindAt ((withInt .im1 0x00#8).sp - 2) = .ram ∧
    (withInt .im0 0xC7#8).resetLow = false ∧ Acceptable (withInt .im0 0xC7#8) ∧ Quiet (withInt .im0 0xC7#8) ∧
    (withInt .im0 0xC7#8).im = .im0 ∧ (withInt .im0 0xC7#8).ackData &&& 0xC7#8 = 0xC7#8 ∧
    (withInt .im0 0xFF#8).ackData &&& 0xC7#8 = 0xC7#8 := by
  unfold Quiet Acceptable; decide

theorem test_meets_IntModeZeroRefused :
    (withInt .im0 0xCD#8).resetLow = false ∧ Acceptable (withInt .im0 0xCD#8) ∧ (withInt .im0 0xCD#8).im = .im0 ∧
    (withInt .im0 0xCD#8).ackData &&& 0xC7#8 ≠ 0xC7#8 := by
  unfold Acceptable; decide

theorem test_meets_IntAcceptanceVectored :
    (withInt .im2 0xFF#8).resetLow = false ∧ Acceptable (withInt .im2 0xFF#8) ∧ Quiet (withInt .im2 0xFF#8) ∧
    (withInt .im2 0xFF#8).im = .im2 ∧ (withInt .im2 0xFF#8).ackData = 0xFF#8 ∧
    (withInt .im2 0xFF#8).im2Indirect = true ∧ { withInt .im2 0xFF#8 with im2Indirect := false }.im2Indirect = false ∧
    (withInt .im2 0xFF#8).plat.backed (wordOf (withInt .im2 0xFF#8).i 0xFF#8) = true ∧
    (withInt .im2 0xFF#8).plat.backed (wordOf (withInt .im2 0xFF#8).i 0xFF#8 + 1) = true := by
  unfold Quiet Acceptable; decide

theorem test_meets_EnableDelay :
    Running (start 0x1000#16 [0xFB#8] []) ∧ (∃ s1, (start 0x1000#16 [0xFB#8] []).fetch = some (.ei, s1)) ∧
    Running (start 0x1000#16 [0xF3#8] []) ∧ (∃ s1, (start 0x1000#16 [0xF3#8] []).fetch = some (.di, s1)) ∧
    Running (start 0x1000#16 [0x00#8] []) ∧ (∃ s1, (start 0x1000#16 [0x00#8] []).fetch = some (.nop, s1)) ∧
    Instr.nop ≠ .ei := by
  unfold Running
  exact ⟨by decide, ⟨_, rfl⟩, by decide, ⟨_, rfl⟩, by decide, ⟨_, rfl⟩, by decide⟩

theorem test_meets_HaltedStep :
    { plain with halted := true }.resetLow = false ∧ { plain with halted := true }.nmiPending = false ∧
    { plain with halted := true }.intAccepted = false ∧ { plain with halted := true }.halted = true ∧
    Quiet { plain with halted := true } ∧ { plain with halted := true }.runEnded = true := by
  unfold Quiet; decide

/-- INC A; HALT runs to its end in two steps, before any halted cycle (R499): A, R and PC as R265 and R306 give them. -/
def incThenHalt : State := start 0x1000#16 [0x3C#8, 0x76#8] []

theorem test_run_ends_at_halt :
    ∃ t, runToEnd 5 incThenHalt = some (.next t) ∧ runSteps 2 incThenHalt = .next t ∧ t.runEnded = true ∧
      t.a = incThenHalt.a + 1 ∧ t.r = incThenHalt.r + 2 ∧ t.pc = 0x1002#16 :=
  ⟨_, rfl, rfl, by decide, by decide, by decide, by decide⟩

/-- A halted CPU with an INT still to come has not ended its run (R499, D18). -/
theorem test_run_not_ended_with_int_ahead :
    { plain with halted := true, schedule := [{ int := true, data := none, nmiEdge := false, reset := false }] }.runEnded
      = false := by decide

theorem test_meets_InvariantKeptByStep : (withInt .im1 0x00#8).Inv ∧ ∃ t, step (withInt .im1 0x00#8) = .next t := by
  unfold State.Inv
  exact ⟨by decide, _, rfl⟩

theorem test_meets_ControlStateWriters : ∃ t, exec .retn plain = .next t := ⟨_, rfl⟩

theorem test_meets_RefreshBitSeven :
    (∃ t, step { plain with r := 0xFF#8 } = .next t) ∧ { plain with r := 0xFF#8 }.resetLow = false ∧
    ∀ s1, { plain with r := 0xFF#8 }.fetch ≠ some (.ldRregA, s1) := by
  refine ⟨⟨_, rfl⟩, rfl, ?_⟩
  intro s1 h
  have h' := congrArg (Option.map Prod.fst) h
  revert h'
  simp only [Option.map_some]
  decide

end Sys2Proof.Machine
end

section
/-! The control state of the CPU (R29, R40 to R44) and the alternate set (R23): what one instruction does to them, and that it
keeps the canonical form of memory. -/

namespace Sys2Proof.Machine

/-- The pieces of state that only named instructions write: the alternate set, I, R, the interrupt flip-flops and latches, HALT. -/
structure Control where
  altA : Byte
  altF : Flags
  altB : Byte
  altC : Byte
  altD : Byte
  altE : Byte
  altH : Byte
  altL : Byte
  i : Byte
  r : Byte
  iff1 : Bool
  iff2 : Bool
  im : IntMode
  halted : Bool
  eiShadow : Bool
  nmiPending : Bool

/-- The control state and the alternate set of a state. -/
def State.control (s : State) : Control :=
  { altA := s.altA, altF := s.altF, altB := s.altB, altC := s.altC, altD := s.altD, altE := s.altE, altH := s.altH,
    altL := s.altL, i := s.i, r := s.r, iff1 := s.iff1, iff2 := s.iff2, im := s.im, halted := s.halted,
    eiShadow := s.eiShadow, nmiPending := s.nmiPending }

/-- The control state each instruction leaves: eleven of them write it, the others keep it. -/
def controlAfter (i : Instr) (s : State) : Control :=
  match i with
  | .ei => { s.control with iff1 := true, iff2 := true, eiShadow := true }
  | .di => { s.control with iff1 := false, iff2 := false }
  | .retn => { s.control with iff1 := s.iff2 }
  | .im0 => { s.control with im := .im0 }
  | .im1 => { s.control with im := .im1 }
  | .im2 => { s.control with im := .im2 }
  | .ldIregA => { s.control with i := s.a }
  | .ldRregA => { s.control with r := s.a }
  | .halt => { s.control with halted := true }
  | .exAfAf => { s.control with altA := s.a, altF := s.f }
  | .exx => { s.control with altB := s.b, altC := s.c, altD := s.d, altE := s.e, altH := s.h, altL := s.l }
  | _ => s.control

/-- From `s` to `t` the control state becomes `c`, and memory in canonical form stays so. -/
structure MovesTo (s t : State) (c : Control) : Prop where
  control : t.control = c
  wf : Memory.wf s.plat.mem = true → Memory.wf t.plat.mem = true

/-! Moves compose: one rule per shared operation, for every state it is applied to. -/

section
variable {s t u : State} {c : Control}

theorem MovesTo.refl (s : State) : MovesTo s s s.control := ⟨rfl, id⟩

/-- Writes to anything but the control state and memory move nowhere else. -/
theorem MovesTo.congr (h : MovesTo s t c) (hc : u.control = t.control) (hm : u.plat.mem = t.plat.mem) : MovesTo s u c :=
  ⟨hc.trans h.control, hm ▸ h.wf⟩

/-- A conditional move goes where its two outcomes go. -/
theorem MovesTo.ite {p : Prop} [Decidable p] (ht : MovesTo s t c) (hu : MovesTo s u c) :
    MovesTo s (if p then t else u) c := by
  split
  · exact ht
  · exact hu

theorem MovesTo.setReg (h : MovesTo s t c) (r : Reg8) (v : Byte) : MovesTo s (t.setReg r v) c :=
  h.congr (by cases r <;> rfl) (by simp)

theorem MovesTo.setPair (h : MovesTo s t c) (dd : Pair) (v : Word) : MovesTo s (t.setPair dd v) c :=
  h.congr (by cases dd <;> rfl) (by simp)

theorem MovesTo.setStackPair (h : MovesTo s t c) (qq : StackPair) (v : Word) : MovesTo s (t.setStackPair qq v) c :=
  h.congr (by cases qq <;> rfl) (by simp)

theorem MovesTo.withIx (h : MovesTo s t c) (v : Word) : MovesTo s { t with ix := v } c := h.congr rfl rfl

theorem MovesTo.withIy (h : MovesTo s t c) (v : Word) : MovesTo s { t with iy := v } c := h.congr rfl rfl

theorem MovesTo.withPc (h : MovesTo s t c) (v : Word) : MovesTo s { t with pc := v } c := h.congr rfl rfl

theorem MovesTo.setBc (h : MovesTo s t c) (v : Word) : MovesTo s (t.setBc v) c := h.congr rfl rfl

theorem MovesTo.setDe (h : MovesTo s t c) (v : Word) : MovesTo s (t.setDe v) c := h.congr rfl rfl

theorem MovesTo.setHl (h : MovesTo s t c) (v : Word) : MovesTo s (t.setHl v) c := h.congr rfl rfl

theorem MovesTo.setFlagsFree (h : MovesTo s t c) (k : Byte → Flags) : MovesTo s (t.setFlagsFree k) c := h.congr rfl rfl

theorem MovesTo.setFlags (h : MovesTo s t c) (f : Flags) : MovesTo s (t.setFlags f) c := h.setFlagsFree f.withFreeX

theorem MovesTo.repeatIf (h : MovesTo s t c) (again : Bool) : MovesTo s (t.repeatIf again) c := .ite (h.congr rfl rfl) h

theorem MovesTo.afterRead (h : MovesTo s t c) (a : Word) : MovesTo s (t.afterRead a) c :=
  ⟨h.control, fun hw => t.wf_afterRead a (h.wf hw)⟩

theorem MovesTo.write (h : MovesTo s t c) (a : Word) (v : Byte) : MovesTo s (t.write a v) c :=
  ⟨h.control, fun hw => t.wf_write a v (h.wf hw)⟩

theorem MovesTo.afterInput (h : MovesTo s t c) (port : Word) : MovesTo s (t.afterInput port) c :=
  ⟨h.control, fun hw => t.wf_afterInput port (h.wf hw)⟩

theorem MovesTo.output (h : MovesTo s t c) (port : Word) (v : Byte) : MovesTo s (t.output port v) c :=
  ⟨h.control, fun hw => t.wf_output port v (h.wf hw)⟩

theorem MovesTo.pushByte (h : MovesTo s t c) (v : Byte) : MovesTo s (t.pushByte v) c :=
  ⟨h.control, fun hw => t.wf_pushByte v (h.wf hw)⟩

theorem MovesTo.afterPopByte (h : MovesTo s t c) : MovesTo s t.afterPopByte c := (h.afterRead t.sp).congr rfl rfl

theorem MovesTo.afterRead16 (h : MovesTo s t c) (a : Word) : MovesTo s (t.afterRead16 a) c :=
  (h.afterRead a).afterRead (a + 1)

theorem MovesTo.write16 (h : MovesTo s t c) (a v : Word) : MovesTo s (t.write16 a v) c :=
  (h.write a (loByte v)).write (a + 1) (hiByte v)

theorem MovesTo.push16 (h : MovesTo s t c) (v : Word) : MovesTo s (t.push16 v) c :=
  (h.pushByte (hiByte v)).pushByte (loByte v)

theorem MovesTo.afterPop16 (h : MovesTo s t c) : MovesTo s t.afterPop16 c := h.afterPopByte.afterPopByte

theorem MovesTo.callTo (h : MovesTo s t c) (target : Word) : MovesTo s (t.callTo target) c :=
  (h.push16 t.pc).withPc target

theorem MovesTo.returnPop (h : MovesTo s t c) : MovesTo s t.returnPop c := h.afterPop16.withPc t.pop16

theorem MovesTo.modify (h : MovesTo s t c) (a : Word) (res : Byte → Byte) : MovesTo s (t.modify a res) c :=
  (h.afterRead a).write a (res (t.read a))

theorem MovesTo.digits (h : MovesTo s t c) (toMem toA : Byte → Byte → Byte) : MovesTo s (t.digits toMem toA) c :=
  ((h.modify _ _).setFlags _).setReg .a _

theorem MovesTo.swapTop (h : MovesTo s t c) (v : Word) : MovesTo s (t.swapTop v) c :=
  ((h.afterRead16 t.sp).write _ _).write _ _

theorem MovesTo.blockMove (h : MovesTo s t c) (delta : Word) : MovesTo s (t.blockMove delta) c :=
  (((((h.afterRead _).write _ _).setDe _).setHl _).setBc _).setFlags _

theorem MovesTo.blockSearch (h : MovesTo s t c) (delta : Word) : MovesTo s (t.blockSearch delta) c :=
  (((h.afterRead _).setHl _).setBc _).setFlags _

theorem MovesTo.blockIn (h : MovesTo s t c) (delta : Word) : MovesTo s (t.blockIn delta) c :=
  ((((h.afterInput _).write _ _).setReg .b _).setHl _).setFlagsFree _

theorem MovesTo.blockOut (h : MovesTo s t c) (delta : Word) : MovesTo s (t.blockOut delta) c :=
  ((((h.afterRead _).output _ _).setReg .b _).setHl _).setFlagsFree _

end

/-- What every instruction does to the control state and to the form of memory. The groups are those of the machine cycles an
instruction makes after its fetch. -/
theorem exec_movesTo (i : Instr) (s : State) : ∃ t, exec i s = .next t ∧ MovesTo s t (controlAfter i s) := by
  have stay := MovesTo.refl s
  cases i with
  -- The writers of control state; RETN alone of them uses the bus.
  | ei | di | im0 | im1 | im2 | ldIregA | ldRregA | halt | exAfAf | exx => exact ⟨_, rfl, rfl, id⟩
  | retn => exact ⟨_, rfl, by rw [State.returnNmi_eq]; rfl, s.wf_returnPop⟩
  -- No machine cycle.
  | ldAIreg | ldARreg | ldIxNn | ldIyNn | ldSpHl | ldSpIx | ldSpIy | exDeHl
  | addAR | addAN | adcAR | adcAN | subR | subN | sbcAR | sbcAN | andR | andN | xorR | xorN | orR | orN | cpR | cpN
  | addHlSs | adcHlSs | sbcHlSs | addIxPp | addIyRr | incIx | incIy | decIx | decIy
  | daa | cpl | neg | ccf | scf | nop | rlca | rla | rrca | rra | bitR
  | jpNn | jrE | jpHl | jpIx | jpIy => exact ⟨_, rfl, rfl, id⟩
  | ldRR | ldRN | setR | resR => exact ⟨_, rfl, stay.setReg _ _⟩
  | incR | decR | rlcR | rlR | rrcR | rrR | slaR | sraR | srlR => exact ⟨_, rfl, (stay.setReg _ _).setFlags _⟩
  | ldDdNn | incSs | decSs => exact ⟨_, rfl, stay.setPair _ _⟩
  | jpCcNn | jrCE | jrNcE | jrZE | jrNzE => exact ⟨_, rfl, .ite ⟨rfl, id⟩ stay⟩
  | djnzE => exact ⟨_, rfl, .ite ⟨rfl, id⟩ ⟨rfl, id⟩⟩
  -- One byte or one word read.
  | ldAAtBc | ldAAtDe | ldAAtNn
  | addAAtHl | addAAtIx | addAAtIy | adcAAtHl | adcAAtIx | adcAAtIy | subAtHl | subAtIx | subAtIy
  | sbcAAtHl | sbcAAtIx | sbcAAtIy | andAtHl | andAtIx | andAtIy | xorAtHl | xorAtIx | xorAtIy
  | orAtHl | orAtIx | orAtIy | cpAtHl | cpAtIx | cpAtIy | bitAtHl | bitAtIx | bitAtIy =>
    exact ⟨_, rfl, (stay.afterRead _).congr rfl rfl⟩
  | ldRAtHl | ldRAtIx | ldRAtIy => exact ⟨_, rfl, (stay.afterRead _).setReg _ _⟩
  | cpi | cpd => exact ⟨_, rfl, stay.blockSearch _⟩
  | cpir | cpdr => exact ⟨_, rfl, (stay.blockSearch _).repeatIf _⟩
  | ldHlAtNn => exact ⟨_, rfl, (stay.afterRead16 _).setHl _⟩
  | ldIxAtNn => exact ⟨_, rfl, (stay.afterRead16 _).withIx _⟩
  | ldIyAtNn => exact ⟨_, rfl, (stay.afterRead16 _).withIy _⟩
  | ldDdAtNn => exact ⟨_, rfl, (stay.afterRead16 _).setPair _ _⟩
  -- One byte or one word written.
  | ldAtHlR | ldAtIxR | ldAtIyR | ldAtHlN | ldAtIxN | ldAtIyN | ldAtBcA | ldAtDeA | ldAtNnA =>
    exact ⟨_, rfl, stay.write _ _⟩
  | ldAtNnHl | ldAtNnDd | ldAtNnIx | ldAtNnIy => exact ⟨_, rfl, stay.write16 _ _⟩
  -- A read, then a write.
  | incAtHl | incAtIx | incAtIy | decAtHl | decAtIx | decAtIy
  | rlcAtHl | rlcAtIx | rlcAtIy | rlAtHl | rlAtIx | rlAtIy | rrcAtHl | rrcAtIx | rrcAtIy | rrAtHl | rrAtIx | rrAtIy
  | slaAtHl | slaAtIx | slaAtIy | sraAtHl | sraAtIx | sraAtIy | srlAtHl | srlAtIx | srlAtIy =>
    exact ⟨_, rfl, (stay.modify _ _).setFlags _⟩
  | setAtHl | setAtIx | setAtIy | resAtHl | resAtIx | resAtIy => exact ⟨_, rfl, stay.modify _ _⟩
  | rld | rrd => exact ⟨_, rfl, stay.digits _ _⟩
  | exAtSpHl => exact ⟨_, rfl, (stay.swapTop _).setHl _⟩
  | exAtSpIx => exact ⟨_, rfl, (stay.swapTop _).withIx _⟩
  | exAtSpIy => exact ⟨_, rfl, (stay.swapTop _).withIy _⟩
  | ldi | ldd => exact ⟨_, rfl, stay.blockMove _⟩
  | ldir | lddr => exact ⟨_, rfl, (stay.blockMove _).repeatIf _⟩
  -- The stack.
  | pushQq | pushIx | pushIy => exact ⟨_, rfl, stay.push16 _⟩
  | popQq => exact ⟨_, rfl, stay.afterPop16.setStackPair _ _⟩
  | popIx => exact ⟨_, rfl, stay.afterPop16.withIx _⟩
  | popIy => exact ⟨_, rfl, stay.afterPop16.withIy _⟩
  | callNn | rstP => exact ⟨_, rfl, stay.callTo _⟩
  | callCcNn => exact ⟨_, rfl, .ite (stay.callTo _) stay⟩
  | ret | reti => exact ⟨_, rfl, stay.returnPop⟩
  | retCc => exact ⟨_, rfl, .ite stay.returnPop stay⟩
  -- The ports.
  | inAN => exact ⟨_, rfl, (stay.afterInput _).setReg .a _⟩
  | inRC => exact ⟨_, rfl, ((stay.afterInput _).setReg _ _).setFlags _⟩
  | outNA | outCR => exact ⟨_, rfl, stay.output _ _⟩
  | ini | ind => exact ⟨_, rfl, stay.blockIn _⟩
  | inir | indr => exact ⟨_, rfl, (stay.blockIn _).repeatIf _⟩
  | outi | outd => exact ⟨_, rfl, stay.blockOut _⟩
  | otir | otdr => exact ⟨_, rfl, (stay.blockOut _).repeatIf _⟩

/-- The state an instruction gives is the one of `exec_movesTo`. -/
theorem movesTo_of_exec {i : Instr} {s t : State} (h : exec i s = .next t) : MovesTo s t (controlAfter i s) := by
  obtain ⟨u, hu, hm⟩ := exec_movesTo i s
  rw [h] at hu
  cases hu
  exact hm

end Sys2Proof.Machine
end

section
/-! What one step can do, case by case, and what each case does to the control state. -/

namespace Sys2Proof.Machine

/-- The ways a step from `s` ends in a next state, with the conditions under which each is taken (R436). -/
inductive StepCase (s : State) : State → Prop
  | reset (hreset : s.resetLow = true) : StepCase s s.applyReset
  | nmi (hreset : s.resetLow = false) (hnmi : s.nmiPending = true) : StepCase s (s.acceptNmi.tick nmiTStates)
  | int (hreset : s.resetLow = false) (hnmi : s.nmiPending = false) (hint : s.intAccepted = true) {u : State}
      (hu : s.acceptInt = .next u) : StepCase s (u.tick (intTStates s.im))
  | halted (hreset : s.resetLow = false) (hnmi : s.nmiPending = false) (hint : s.intAccepted = false)
      (hhalted : s.halted = true) : StepCase s (s.haltCycle.finishInstr haltTStates)
  | instr (hrun : Running s) {i : Instr} {s1 u : State} (hfetch : s.fetch = some (i, s1)) (hexec : exec i s1 = .next u) :
      StepCase s (u.finishInstr (tStates i s1))

/-- The instruction step, taken apart. -/
theorem stepInstr_next {s t : State} (h : stepInstr s = .next t) :
    ∃ i s1 u, s.fetch = some (i, s1) ∧ exec i s1 = .next u ∧ t = u.finishInstr (tStates i s1) := by
  unfold stepInstr at h
  split at h
  · cases h
  next i s1 hfetch =>
    split at h
    next u hexec => cases h; exact ⟨i, s1, u, hfetch, hexec, rfl⟩
    · cases h
    · cases h

/-- A step that gives a next state is one of the cases of `StepCase`. -/
theorem step_cases {s t : State} (h : step s = .next t) : StepCase s t := by
  unfold step at h
  split at h
  next hreset => cases h; exact .reset hreset
  next hreset =>
    simp only [Bool.not_eq_true] at hreset
    split at h
    next hnmi => cases h; exact .nmi hreset hnmi
    next hnmi =>
      simp only [Bool.not_eq_true] at hnmi
      split at h
      next hint =>
        split at h
        next u hu => cases h; exact .int hreset hnmi hint hu
        · cases h
        · cases h
      next hint =>
        simp only [Bool.not_eq_true] at hint
        split at h
        next hhalted => cases h; exact .halted hreset hnmi hint hhalted
        next hhalted =>
          obtain ⟨i, s1, u, hfetch, hexec, rfl⟩ := stepInstr_next h
          exact .instr ⟨hreset, hnmi, hint, by simpa using hhalted⟩ hfetch hexec

/-- The acceptance of an NMI (R445). -/
theorem acceptNmi_movesTo (s : State) : MovesTo s s.acceptNmi
    { s.control with nmiPending := false, halted := false, iff1 := false, r := refreshNext s.r } := by
  have start : MovesTo s { s with nmiPending := false, halted := false, iff1 := false }.m1
      { s.control with nmiPending := false, halted := false, iff1 := false, r := refreshNext s.r } := ⟨rfl, id⟩
  exact (start.afterRead _).callTo _

/-- The handler entries change nothing of the control state (R449 to R451). -/
theorem enterHandler_movesTo {s t : State} {v : Byte} (h : s.enterHandler v = .next t) : MovesTo s t s.control := by
  have stay := MovesTo.refl s
  unfold State.enterHandler at h
  split at h
  · split at h
    · cases h; exact stay.callTo _
    · cases h
  · cases h; exact stay.callTo _
  · cases h; exact .ite (((stay.push16 _).afterRead16 _).withPc _) (stay.callTo _)

/-- The acceptance of a maskable interrupt (R448). -/
theorem acceptInt_movesTo {s t : State} (h : s.acceptInt = .next t) : MovesTo s t
    { s.control with halted := false, iff1 := false, iff2 := false, r := refreshNext s.r } := by
  have hm := enterHandler_movesTo h
  have hack : s.beginInt.acknowledge.control =
      { s.control with halted := false, iff1 := false, iff2 := false, r := refreshNext s.r } := by
    rw [State.acknowledged_eq]; rfl
  exact ⟨hm.control.trans hack, fun hw => hm.wf (s.wf_acknowledged hw)⟩

/-- A halted cycle counts R (R455). -/
theorem haltCycle_movesTo (s : State) : MovesTo s s.haltCycle { s.control with r := refreshNext s.r } :=
  ⟨rfl, s.plat.wf_endCycle⟩

/-- A fetch ends the EI delay and counts R, whose bit 7 it keeps (R28, R43, R101). -/
theorem fetch_movesTo {s s1 : State} {i : Instr} (h : s.fetch = some (i, s1)) :
    MovesTo s s1 { s.control with eiShadow := false, r := s1.r } ∧ s1.r.msb = s.r.msb := by
  obtain ⟨heq, hmsb, hwf⟩ := fetchFrom_keeps 4 [] s.beginInstr s1 i h
  exact ⟨⟨by rw [heq]; rfl, hwf⟩, hmsb⟩

/-- The T states are counted outside the control state. -/
theorem MovesTo.tick {s t : State} {c : Control} (h : MovesTo s t c) (n : Nat) : MovesTo s (t.tick n) c := h.congr rfl rfl

/-- Of the control state the sampling point writes the latched NMI alone (R437). -/
theorem MovesTo.finishInstr {s t : State} {c : Control} (h : MovesTo s t c) (n : Nat) :
    MovesTo s (t.finishInstr n) { c with nmiPending := (t.finishInstr n).nmiPending } := by
  obtain ⟨rfl, hwf⟩ := h
  unfold State.finishInstr
  rw [State.sampleInputs_keeps]
  exact ⟨rfl, hwf⟩

end Sys2Proof.Machine
end

section
/-! The invariant: it holds after RESET and every step keeps it. -/

namespace Sys2Proof.Machine

/-- The part of the invariant that is about the control state: IFF1 and a pending EI delay each imply IFF2 (R40, R43). -/
def Control.Ordered (c : Control) : Prop := (c.iff1 = true → c.iff2 = true) ∧ (c.eiShadow = true → c.iff2 = true)

theorem State.inv_iff (s : State) : s.Inv ↔ Memory.wf s.plat.mem = true ∧ s.control.Ordered := Iff.rfl

/-- A move from memory in canonical form to an ordered control state ends in the invariant. -/
theorem MovesTo.inv {s t : State} {c : Control} (h : MovesTo s t c) (hw : Memory.wf s.plat.mem = true) (hc : c.Ordered) :
    t.Inv :=
  t.inv_iff.mpr ⟨h.wf hw, h.control ▸ hc⟩

/-- Every instruction keeps the order of the flip-flops. It starts after a fetch, which has ended the EI delay: DI clears IFF2, so
it would break a delay still pending. -/
theorem controlAfter_ordered (i : Instr) {s : State} (ho : s.control.Ordered) (he : s.eiShadow = false) :
    (controlAfter i s).Ordered := by
  unfold controlAfter
  split
  case h_1 => exact ⟨fun _ => rfl, fun _ => rfl⟩
  case h_2 => exact ⟨fun h => h, fun h => absurd (he.symm.trans h) Bool.false_ne_true⟩
  case h_3 => exact ⟨fun h => h, ho.2⟩
  all_goals exact ho

/-- After a fetch the flip-flops are in order, no EI delay is pending and memory is canonical still. -/
theorem ordered_of_fetch {s s1 : State} {i : Instr} (hs : s.Inv) (h : s.fetch = some (i, s1)) :
    s1.control.Ordered ∧ s1.eiShadow = false ∧ Memory.wf s1.plat.mem = true := by
  obtain ⟨hw, hiff, -⟩ := hs
  have hf := (fetch_movesTo h).1
  refine ⟨?_, congrArg Control.eiShadow hf.control, hf.wf hw⟩
  rw [hf.control]
  exact ⟨hiff, fun h => absurd h Bool.false_ne_true⟩

/-- Settles O56: memory is empty after RESET and no flip-flop is set. -/
theorem invariantAtReset : Obligations.InvariantAtReset :=
  ⟨Memory.wf_reset, fun h => h, fun h => h⟩

/-- Settles O57, by the cases of a step: each ends in an ordered control state and keeps the canonical form of memory. -/
theorem invariantKeptByStep : Obligations.InvariantKeptByStep := by
  intro s t hs h
  have ⟨hw, hiff, hei⟩ := hs
  cases step_cases h with
  | reset => exact ⟨hw, fun h => h, fun h => absurd h Bool.false_ne_true⟩
  | nmi => exact ((acceptNmi_movesTo s).tick _).inv hw ⟨fun h => absurd h Bool.false_ne_true, hei⟩
  | int _ _ hint hu =>
    have he : s.eiShadow = false := by
      simp only [State.intAccepted, Bool.and_eq_true, Bool.not_eq_true'] at hint
      exact hint.1.2
    exact ((acceptInt_movesTo hu).tick _).inv hw ⟨fun h => h, fun h => absurd (he.symm.trans h) Bool.false_ne_true⟩
  | halted => exact ((haltCycle_movesTo s).finishInstr _).inv hw ⟨hiff, hei⟩
  | instr _ hfetch hexec =>
    obtain ⟨ho, he, hw1⟩ := ordered_of_fetch hs hfetch
    exact ((movesTo_of_exec hexec).finishInstr _).inv hw1 (controlAfter_ordered _ ho he)

end Sys2Proof.Machine
end

section
/-! Who writes the control state, and bit 7 of R. -/

namespace Sys2Proof.Machine

/-- Settles O1, by evaluating the fixed reset state. -/
theorem resetStateValues : Obligations.ResetStateValues :=
  ⟨rfl, rfl, rfl, rfl, rfl, rfl, rfl, rfl, rfl⟩

/-- Settles O58: what an instruction leaves of the control state is `controlAfter`, in which each field has its writers. -/
theorem controlStateWriters : Obligations.ControlStateWriters := by
  intro i s t h
  have hc := (movesTo_of_exec h).control
  unfold controlAfter at hc
  split at hc <;> simp_all [State.control]

/-- Settles O59, by the cases of a step: each counts R by M1 cycles, which keep bit 7, and the instruction itself is not LD R,A. -/
theorem refreshBitSeven : Obligations.RefreshBitSeven := by
  intro s t h hreset hfetch
  have counted {u : State} {c : Control} (hm : MovesTo s u c) (hr : c.r = refreshNext s.r) : u.r.msb = s.r.msb := by
    have hu : u.r = c.r := congrArg Control.r hm.control
    rw [hu, hr, refreshNext_msb]
  cases step_cases h with
  | reset hlow => exact absurd (hreset.symm.trans hlow) Bool.false_ne_true
  | nmi => exact counted ((acceptNmi_movesTo s).tick _) rfl
  | int _ _ _ hu => exact counted ((acceptInt_movesTo hu).tick _) rfl
  | halted => exact counted ((haltCycle_movesTo s).finishInstr _) rfl
  | @instr _ i s1 u hf hexec =>
    have hi : i ≠ .ldRregA := fun hi => hfetch s1 (hi ▸ hf)
    obtain ⟨-, -, -, -, hr, -⟩ := controlStateWriters i s1 u hexec
    have hend : (u.finishInstr (tStates i s1)).r = u.r := congrArg Control.r ((MovesTo.refl u).finishInstr _).control
    rw [hend, hr hi]
    exact (fetch_movesTo hf).2

end Sys2Proof.Machine
end

section
/-! Accesses by the kind of the address (R72, R73, R85, R86), and round trips over the stack (R80). -/

namespace Sys2Proof.Machine

/-- Backed memory is what RAM and ROM answer for (R72). -/
theorem Platform.backed_iff (p : Platform) (a : Word) : p.backed a = true ↔ p.kindAt a = .ram ∨ p.kindAt a = .rom := by
  unfold Platform.backed
  cases p.kindAt a <;> simp

/-- What a read returns where nothing answers: the next free value (R85). -/
theorem State.read_unmapped (s : State) (a : Word) (h : s.plat.kindAt a = .unmapped) :
    s.read a = Config.anyByte s.plat.draws := by
  unfold State.read Platform.readVal
  rw [h]
  rfl

/-- What a read cycle adds to the history: one event where a device answers, else nothing (R86). -/
theorem State.afterRead_busLog (s : State) (a : Word) (q : Quiet s) :
    (s.afterRead a).plat.busLog =
      s.plat.busLog ++ (if s.plat.kindAt a = .device then [.memRead a (s.read a)] else []) := by
  have hg : (s.plat.readCycle a).grants = [] := by simpa [Quiet] using q
  simp only [State.afterRead_plat, Platform.endCycle_quiet _ hg]
  unfold State.read Platform.readCycle Platform.readVal
  cases h : s.plat.kindAt a <;> simp [Platform.answered]

/-- Settles O9: each clause is the law of the read or the write cycle at that kind of address. -/
theorem accessByMemoryKind : Obligations.AccessByMemoryKind := by
  intro s a v q
  have hread : SameMem s (s.afterRead a) := (s.afterRead_quiet a q).2.2
  obtain ⟨hat, hother⟩ := s.write_stored a v q
  refine ⟨fun h => ?_, fun h => ⟨s.read_unmapped a h, hread⟩, fun h => ⟨hread, ?_⟩, fun h => ⟨?_, ?_⟩,
    fun h => ⟨?_, ?_⟩, hother⟩
  · have hb : s.plat.backed a = true := (s.plat.backed_iff a).mpr h
    exact ⟨s.plat.readVal_backed a hb, s.afterRead_backed a q hb⟩
  · rw [s.afterRead_busLog a q, if_pos h]
  · rw [hat, if_pos h]
  · rw [s.write_busLog a v q, if_pos h, List.append_nil]
  · rw [hat, if_neg h]
  · rw [s.write_busLog a v q, if_neg h]

/-- Nothing outside the CPU is a piece of the CPU's own state. -/
@[simp] theorem State.val_withPlat (s : State) (p : Platform) (x : Loc) : (s.withPlat p).val x = s.val x := by
  cases x <;> rfl

/-- A write of a stack pair changes its two halves alone, for AF all eight bits of F (R106). -/
theorem State.setStackPair_frame (s : State) (qq : StackPair) (v : Word) :
    Frame s (s.setStackPair qq v) (stackPairLocs qq) := by
  intro x hx
  -- A piece of state is a half of the pair, which `hx` excludes, or one that the update does not write.
  cases qq <;> cases x <;> simp [stackPairLocs, allFlags] at hx <;> rfl

@[simp] theorem State.setStackPair_sp (s : State) (qq : StackPair) (v : Word) : (s.setStackPair qq v).sp = s.sp := by
  cases qq <;> rfl

/-- On a RAM stack the word pushed is the word popped (R80). -/
theorem State.pop16_push16 (s : State) (v : Word) (q : Quiet s) (hhigh : s.plat.kindAt (s.sp - 1) = .ram)
    (hlow : s.plat.kindAt (s.sp - 2) = .ram) : (s.push16 v).pop16 = v := by
  obtain ⟨hq, hmap, hpeekLow, hpeekHigh, -⟩ := s.push16_quiet v q
  rw [sub_two_add_one, if_pos hhigh] at hpeekHigh
  rw [if_pos hlow] at hpeekLow
  have backed {a : Word} (ha : s.plat.kindAt a = .ram) : (s.push16 v).plat.backed a = true :=
    (Platform.backed_iff _ a).mpr (.inl ((Platform.kindAt_congr _ _ a hmap).trans ha))
  calc (s.push16 v).pop16
    _ = (s.push16 v).read16 (s.sp - 2) := by rw [State.pop16_eq_read16, State.push16_sp]
    _ = wordOf ((s.push16 v).peek (s.sp - 1)) ((s.push16 v).peek (s.sp - 2)) := by
      rw [State.read16_backed _ _ hq (backed hlow) (by rw [sub_two_add_one]; exact backed hhigh), sub_two_add_one]
    _ = v := by rw [hpeekHigh, hpeekLow, wordOf_hiByte_loByte]

/-- A push and a pop move SP down and up again and touch nothing else of the CPU (R80). -/
theorem State.afterPop16_push16 (s : State) (v : Word) : ∃ p, (s.push16 v).afterPop16 = s.withPlat p := by
  refine ⟨(s.push16 v).afterPop16.plat, ?_⟩
  rw [State.afterPop16_eq, State.push16_sp, sub_two_add_two, State.push16_eq]
  rfl

/-- A pop neither reads nor writes PC. -/
theorem State.afterPop16_withPc (s : State) (x : Word) : { s with pc := x }.afterPop16 = { s.afterPop16 with pc := x } := rfl

theorem State.pop16_withPc (s : State) (x : Word) : { s with pc := x }.pop16 = s.pop16 := rfl

/-- On a RAM stack a call and a return touch nothing of the CPU (R411, R413). -/
theorem State.returnPop_callTo (s : State) (nn : Word) (q : Quiet s) (hhigh : s.plat.kindAt (s.sp - 1) = .ram)
    (hlow : s.plat.kindAt (s.sp - 2) = .ram) : ∃ p, (s.callTo nn).returnPop = s.withPlat p := by
  obtain ⟨p, hp⟩ := s.afterPop16_push16 s.pc
  refine ⟨p, ?_⟩
  unfold State.callTo State.returnPop
  rw [State.afterPop16_withPc, State.pop16_withPc, s.pop16_push16 s.pc q hhigh hlow, hp]
  rfl

/-- Settles O20: PUSH then POP writes the word pushed to the other pair, CALL then RET brings PC and SP back. -/
theorem stackRoundTrip : Obligations.StackRoundTrip := by
  intro qq qq' nn s q hhigh hlow
  obtain ⟨p, hpop⟩ := s.afterPop16_push16 (s.stackPair qq)
  obtain ⟨p', hret⟩ := s.returnPop_callTo nn q hhigh hlow
  refine ⟨⟨s.push16 (s.stackPair qq), _, rfl, rfl, ?_⟩, ⟨s.callTo nn, _, rfl, rfl, rfl, fun x _ => ?_⟩⟩
  · rw [s.pop16_push16 (s.stackPair qq) q hhigh hlow, hpop]
    exact ⟨by simp, by simp, fun x hx => by rw [State.setStackPair_frame _ _ _ x hx, State.val_withPlat]⟩
  · rw [hret, State.val_withPlat]

end Sys2Proof.Machine
end

section
/-! The opcode byte and its three fields (R100), and the codes of the registers (R104). -/

namespace Sys2Proof

/-- An opcode byte as a number (R100). -/
theorem opcode_toNat (x : Fin 4) (y z : Fin 8) : (opcode x y z).toNat = 64 * x + 8 * y + z := by
  rw [opcode, BitVec.toNat_ofNat]
  omega

@[simp] theorem opcode_bits76 (x : Fin 4) (y z : Fin 8) : (opcode x y z).toNat / 64 = x := by
  rw [opcode_toNat]
  omega

@[simp] theorem opcode_bits53 (x : Fin 4) (y z : Fin 8) : (opcode x y z).toNat / 8 % 8 = y := by
  rw [opcode_toNat]
  omega

@[simp] theorem opcode_bits20 (x : Fin 4) (y z : Fin 8) : (opcode x y z).toNat % 8 = z := by
  rw [opcode_toNat]
  omega

/-- Every byte is an opcode byte of some fields. -/
theorem exists_opcode (op : Byte) : ∃ (x : Fin 4) (y z : Fin 8), op = opcode x y z := by
  refine ⟨⟨op.toNat / 64, ?_⟩, ⟨op.toNat / 8 % 8, ?_⟩, ⟨op.toNat % 8, ?_⟩, BitVec.eq_of_toNat_eq ?_⟩
  · omega
  · omega
  · omega
  · rw [opcode_toNat]
    dsimp only
    omega

/-- A code that names a register is that register's code (R104). -/
theorem eq_code_of_regOf {c : Nat} {r : Reg8} (h : regOf c = some r) : c = r.code := by
  unfold regOf at h
  split at h <;> cases h <;> rfl

/-- The one code that names no register is 110 (R104). -/
theorem eq_six_of_regOf {c : Fin 8} (h : regOf c = none) : c = 6 := by
  revert c
  decide

/-- The byte that stands before the instructions of an index register (R102). -/
def Idx.prefixByte : Idx → Byte
  | .ix => 0xDD#8
  | .iy => 0xFD#8

/-- Behind DDH and FDH the decoder reads an index instruction (R102). -/
theorem decodeBytes_idx (k : Idx) (op : Byte) (rest : List Byte) :
    decodeBytes (k.prefixByte :: op :: rest) = decodeIdx k op.toNat rest := by
  cases k <;> rfl

/-- A first byte that is none of the four prefixes is read by the map R121. -/
theorem decodeBytes_unprefixed {op : Byte} (h : isPrefixByte op = false) (rest : List Byte) :
    decodeBytes (op :: rest) = decodePlain op.toNat rest := by
  simp [decodeBytes, h]

/-- The four prefixes (R102). -/
theorem eq_of_isPrefixByte {op : Byte} (h : isPrefixByte op = true) :
    op = 0xCB#8 ∨ op = 0xED#8 ∨ ∃ k : Idx, op = k.prefixByte := by
  simp only [isPrefixByte, Bool.or_eq_true, beq_iff_eq] at h
  obtain ((h | h) | h) | h := h
  · exact .inl h
  · exact .inr (.inl h)
  · exact .inr (.inr ⟨.ix, h⟩)
  · exact .inr (.inr ⟨.iy, h⟩)

end Sys2Proof
end

section
/-! The decoder rebuilt by the encoder: what is read at each place of the opcode maps R121 to R125 encodes to the bytes read. -/

namespace Sys2Proof

/-- An answer of the decoder is right for the bytes: the instruction is well-formed and the bytes begin with its encoding. -/
def Rebuilds (bs : List Byte) : DecodeResult → Prop
  | .ok i len => i.wellFormed = true ∧ ∃ tail, bs = encode i ++ tail ∧ len = (encode i).length
  | .more | .undocumented => True

section
variable (rest : List Byte)

theorem rebuilds_ok (i : Instr) (hwf : i.wellFormed = true) : Rebuilds (encode i ++ rest) (.ok i (encode i).length) :=
  ⟨hwf, rest, rfl, rfl⟩

/-- One operand byte behind the bytes `pre` (R110, R112, R115). -/
theorem rebuilds_withByte (pre : List Byte) (k : Byte → Instr)
    (hk : ∀ n, (k n).wellFormed = true ∧ encode (k n) = pre ++ [n]) :
    Rebuilds (pre ++ rest) (withByte rest (pre.length + 1) k) := by
  cases rest with
  | nil => trivial
  | cons n tail =>
    obtain ⟨hwf, henc⟩ := hk n
    exact ⟨hwf, tail, by simp [henc], by simp [henc]⟩

/-- A 16-bit operand behind the bytes `pre`, low byte first (R111, R113). -/
theorem rebuilds_withWord (pre : List Byte) (k : Word → Instr)
    (hk : ∀ nn, (k nn).wellFormed = true ∧ encode (k nn) = pre ++ [loByte nn, hiByte nn]) :
    Rebuilds (pre ++ rest) (withWord rest (pre.length + 2) k) := by
  unfold withWord
  split
  next l h tail =>
    obtain ⟨hwf, henc⟩ := hk (wordOf h l)
    exact ⟨hwf, tail, by simp [henc], by simp [henc]⟩
  · trivial

/-- A register form with the register's code, the memory form with code 110 (R104). -/
theorem rebuilds_regOrMem (bs : Nat → List Byte) {c : Fin 8} {len : Nat} {onReg : Reg8 → Instr} {onMem : Instr}
    (hreg : ∀ r : Reg8, Rebuilds (bs r.code) (.ok (onReg r) len)) (hmem : Rebuilds (bs 6) (.ok onMem len)) :
    Rebuilds (bs c) (regOrMem c len onReg onMem) := by
  unfold regOrMem
  split
  next r h => exact eq_code_of_regOf h ▸ hreg r
  next h => exact eq_six_of_regOf h ▸ hmem

/-- First bytes 00H to 3FH (R121). -/
theorem decodeLow_rebuilds (y z : Fin 8) : Rebuilds (opcode 0 y z :: rest) (decodeLow y z rest) := by
  match z with
  | 0 =>
    match y with
    | 0 | 1 => exact rebuilds_ok rest _ rfl
    | 2 | 3 | 4 | 5 | 6 | 7 => exact rebuilds_withByte rest [_] _ fun _ => ⟨rfl, rfl⟩
  | 1 =>
    match y with
    | 0 | 2 | 4 | 6 => exact rebuilds_withWord rest [_] _ fun _ => ⟨rfl, rfl⟩
    | 1 | 3 | 5 | 7 => exact rebuilds_ok rest _ rfl
  | 2 =>
    match y with
    | 0 | 1 | 2 | 3 => exact rebuilds_ok rest _ rfl
    | 4 | 5 | 6 | 7 => exact rebuilds_withWord rest [_] _ fun _ => ⟨rfl, rfl⟩
  | 6 =>
    match y with
    | 0 | 1 | 2 | 3 | 4 | 5 | 6 | 7 => exact rebuilds_withByte rest [_] _ fun _ => ⟨rfl, rfl⟩
  | 3 | 4 | 5 | 7 =>
    match y with
    | 0 | 1 | 2 | 3 | 4 | 5 | 6 | 7 => exact rebuilds_ok rest _ rfl

/-- First bytes 40H to 7FH (R121). -/
theorem decodeLoad_rebuilds (y z : Fin 8) : Rebuilds (opcode 1 y z :: rest) (decodeLoad y z) := by
  unfold decodeLoad
  split
  next r r' hy hz =>
    rw [eq_code_of_regOf hy, eq_code_of_regOf hz]
    exact rebuilds_ok rest (.ldRR r r') rfl
  next r hy hz =>
    rw [eq_code_of_regOf hy, eq_six_of_regOf hz]
    exact rebuilds_ok rest (.ldRAtHl r) rfl
  next r hy hz =>
    rw [eq_six_of_regOf hy, eq_code_of_regOf hz]
    exact rebuilds_ok rest (.ldAtHlR r) rfl
  next hy hz =>
    rw [eq_six_of_regOf hy, eq_six_of_regOf hz]
    exact rebuilds_ok rest .halt rfl

/-- First bytes 80H to BFH (R121, R224). -/
theorem decodeAlu_rebuilds (y z : Fin 8) :
    Rebuilds (opcode 2 y z :: rest) (regOrMem z 1 (aluReg y) (aluAtHl y)) := by
  match y with
  | 0 | 1 | 2 | 3 | 4 | 5 | 6 | 7 =>
    exact rebuilds_regOrMem (opcode 2 _ · :: rest) (fun _ => rebuilds_ok rest _ rfl) (rebuilds_ok rest _ rfl)

/-- First bytes C0H to FFH (R121). -/
theorem decodeHigh_rebuilds (y z : Fin 8) : Rebuilds (opcode 3 y z :: rest) (decodeHigh y z rest) := by
  match z with
  | 0 | 1 | 7 =>
    match y with
    | 0 | 1 | 2 | 3 | 4 | 5 | 6 | 7 => exact rebuilds_ok rest _ rfl
  | 2 | 4 =>
    match y with
    | 0 | 1 | 2 | 3 | 4 | 5 | 6 | 7 => exact rebuilds_withWord rest [_] _ fun _ => ⟨rfl, rfl⟩
  | 3 =>
    match y with
    | 0 => exact rebuilds_withWord rest [_] _ fun _ => ⟨rfl, rfl⟩
    | 1 => trivial
    | 2 | 3 => exact rebuilds_withByte rest [_] _ fun _ => ⟨rfl, rfl⟩
    | 4 | 5 | 6 | 7 => exact rebuilds_ok rest _ rfl
  | 5 =>
    match y with
    | 1 => exact rebuilds_withWord rest [_] _ fun _ => ⟨rfl, rfl⟩
    | 0 | 2 | 4 | 6 => exact rebuilds_ok rest _ rfl
    | 3 | 5 | 7 => trivial
  | 6 =>
    match y with
    | 0 | 1 | 2 | 3 | 4 | 5 | 6 | 7 => exact rebuilds_withByte rest [_] _ fun _ => ⟨rfl, rfl⟩

/-- The map of the first byte (R121). -/
theorem decodePlain_rebuilds (op : Byte) : Rebuilds (op :: rest) (decodePlain op.toNat rest) := by
  obtain ⟨x, y, z, rfl⟩ := exists_opcode op
  simp only [decodePlain, opcode_bits76, opcode_bits53, opcode_bits20]
  match x with
  | 0 => exact decodeLow_rebuilds rest y z
  | 1 => exact decodeLoad_rebuilds rest y z
  | 2 => exact decodeAlu_rebuilds rest y z
  | 3 => exact decodeHigh_rebuilds rest y z

/-- The map behind CBH (R122). -/
theorem decodeCb_rebuilds (op : Byte) : Rebuilds (0xCB#8 :: op :: rest) (decodeCb op.toNat) := by
  obtain ⟨x, y, z, rfl⟩ := exists_opcode op
  simp only [decodeCb, opcode_bits76, opcode_bits53, opcode_bits20]
  match x with
  | 0 =>
    cases hz : regOf z with
    | some r =>
      rw [eq_code_of_regOf hz]
      match y with
      | 0 | 1 | 2 | 3 | 4 | 5 | 7 => exact rebuilds_ok rest _ rfl
      | 6 => trivial
    | none =>
      rw [eq_six_of_regOf hz]
      match y with
      | 0 | 1 | 2 | 3 | 4 | 5 | 7 => exact rebuilds_ok rest _ rfl
      | 6 => trivial
  | 1 | 2 | 3 =>
    exact rebuilds_regOrMem (0xCB#8 :: opcode _ y · :: rest)
      (fun _ => rebuilds_ok rest _ (decide_eq_true y.isLt)) (rebuilds_ok rest _ (decide_eq_true y.isLt))

/-- Second bytes 40H to 7FH behind EDH (R123). -/
theorem decodeEdMid_rebuilds (y z : Fin 8) :
    Rebuilds (0xED#8 :: opcode 1 y z :: rest) (decodeEdMid y z rest) := by
  match z with
  | 0 | 1 =>
    match y with
    | 0 | 1 | 2 | 3 | 4 | 5 | 7 => exact rebuilds_ok rest _ rfl
    | 6 => trivial
  | 2 =>
    match y with
    | 0 | 1 | 2 | 3 | 4 | 5 | 6 | 7 => exact rebuilds_ok rest _ rfl
  | 3 =>
    match y with
    | 0 | 2 | 4 | 6 => exact rebuilds_withWord rest [_, _] (Instr.ldAtNnDd · _) fun _ => ⟨rfl, rfl⟩
    | 1 | 3 | 5 | 7 => exact rebuilds_withWord rest [_, _] _ fun _ => ⟨rfl, rfl⟩
  | 4 =>
    match y with
    | 0 => exact rebuilds_ok rest _ rfl
    | 1 | 2 | 3 | 4 | 5 | 6 | 7 => trivial
  | 5 =>
    match y with
    | 0 | 1 => exact rebuilds_ok rest _ rfl
    | 2 | 3 | 4 | 5 | 6 | 7 => trivial
  | 6 =>
    match y with
    | 0 | 2 | 3 => exact rebuilds_ok rest _ rfl
    | 1 | 4 | 5 | 6 | 7 => trivial
  | 7 =>
    match y with
    | 0 | 1 | 2 | 3 | 4 | 5 => exact rebuilds_ok rest _ rfl
    | 6 | 7 => trivial

/-- Second bytes 80H to BFH behind EDH (R123). -/
theorem decodeEdBlock_rebuilds (y z : Fin 8) :
    Rebuilds (0xED#8 :: opcode 2 y z :: rest) (decodeEdBlock y z) := by
  match y with
  | 0 | 1 | 2 | 3 => trivial
  | 4 | 5 | 6 | 7 =>
    match z with
    | 0 | 1 | 2 | 3 => exact rebuilds_ok rest _ rfl
    | 4 | 5 | 6 | 7 => trivial

/-- The map behind EDH (R123). -/
theorem decodeEd_rebuilds (op : Byte) : Rebuilds (0xED#8 :: op :: rest) (decodeEd op.toNat rest) := by
  obtain ⟨x, y, z, rfl⟩ := exists_opcode op
  simp only [decodeEd, opcode_bits76, opcode_bits53, opcode_bits20]
  match x with
  | 0 | 3 => trivial
  | 1 => exact decodeEdMid_rebuilds rest y z
  | 2 => exact decodeEdBlock_rebuilds rest y z

variable (k : Idx)

/-- The fourth byte behind DDH CBH and FDH CBH (R125). -/
theorem decodeIdxCb_rebuilds (d op : Byte) :
    Rebuilds (k.prefixByte :: 0xCB#8 :: d :: op :: rest) (decodeIdxCb k d op.toNat) := by
  obtain ⟨x, y, z, rfl⟩ := exists_opcode op
  simp only [decodeIdxCb, opcode_bits76, opcode_bits53, opcode_bits20]
  split
  next hz =>
    rw [hz]
    match x with
    | 0 =>
      match y with
      | 0 | 1 | 2 | 3 | 4 | 5 | 7 => cases k <;> exact rebuilds_ok rest _ rfl
      | 6 => trivial
    | 1 | 2 | 3 => cases k <;> exact rebuilds_ok rest _ (decide_eq_true y.isLt)
  · trivial

/-- Second bytes 40H to 7FH behind DDH and FDH (R124). -/
theorem decodeIdxLoad_rebuilds (y z : Fin 8) :
    Rebuilds (k.prefixByte :: opcode 1 y z :: rest) (decodeIdxLoad k y z rest) := by
  unfold decodeIdxLoad
  split
  next r hy hz =>
    rw [eq_code_of_regOf hy, eq_six_of_regOf hz]
    cases k <;> exact rebuilds_withByte rest [_, _] _ fun _ => ⟨rfl, rfl⟩
  next r hy hz =>
    rw [eq_six_of_regOf hy, eq_code_of_regOf hz]
    cases k <;> exact rebuilds_withByte rest [_, _] _ fun _ => ⟨rfl, rfl⟩
  · trivial

/-- Second bytes 80H to BFH behind DDH and FDH (R124, R224). -/
theorem decodeIdxAlu_rebuilds (y z : Fin 8) : Rebuilds (k.prefixByte :: opcode 2 y z :: rest)
    (if (z : Nat) = 6 then withByte rest 3 (aluIdx k y) else .undocumented) := by
  split
  next hz =>
    rw [hz]
    match y with
    | 0 | 1 | 2 | 3 | 4 | 5 | 6 | 7 => cases k <;> exact rebuilds_withByte rest [_, _] _ fun _ => ⟨rfl, rfl⟩
  · trivial

/-- The other second bytes behind DDH and FDH (R124). -/
theorem decodeIdxOther_rebuilds (n : Nat) :
    Rebuilds (k.prefixByte :: BitVec.ofNat 8 n :: rest) (decodeIdxOther k n rest) := by
  unfold decodeIdxOther
  split
  case h_5 | h_6 | h_8 => cases k <;> exact rebuilds_withWord rest [_, _] _ fun _ => ⟨rfl, rfl⟩
  case h_10 | h_11 => cases k <;> exact rebuilds_withByte rest [_, _] _ fun _ => ⟨rfl, rfl⟩
  case h_12 =>
    split
    next d n tail => cases k <;> exact rebuilds_ok tail _ rfl
    · trivial
  case h_18 => trivial
  all_goals cases k <;> exact rebuilds_ok rest _ rfl

/-- The map behind DDH and FDH (R124, R125). -/
theorem decodeIdx_rebuilds (op : Byte) : Rebuilds (k.prefixByte :: op :: rest) (decodeIdx k op.toNat rest) := by
  unfold decodeIdx
  split
  next hcb =>
    obtain rfl : op = 0xCB#8 := BitVec.eq_of_toNat_eq hcb
    split
    · exact decodeIdxCb_rebuilds _ k _ _
    · trivial
  · have other := decodeIdxOther_rebuilds rest k op.toNat
    rw [BitVec.ofNat_toNat, BitVec.setWidth_eq] at other
    obtain ⟨x, y, z, rfl⟩ := exists_opcode op
    simp only [opcode_bits76, opcode_bits53, opcode_bits20]
    match x with
    | 0 | 3 => exact other
    | 1 => exact decodeIdxLoad_rebuilds rest k y z
    | 2 => exact decodeIdxAlu_rebuilds rest k y z

end

/-- Whatever the decoder answers is right for the bytes it was given. -/
theorem decodeBytes_rebuilds (bs : List Byte) : Rebuilds bs (decodeBytes bs) := by
  match bs with
  | [] => trivial
  | op :: rest =>
    cases hpre : isPrefixByte op with
    | false =>
      rw [decodeBytes_unprefixed hpre]
      exact decodePlain_rebuilds rest op
    | true =>
      match rest with
      | [] => simp [decodeBytes, hpre, Rebuilds]
      | op2 :: rest =>
        obtain rfl | rfl | ⟨k, rfl⟩ := eq_of_isPrefixByte hpre
        · exact decodeCb_rebuilds rest op2
        · exact decodeEd_rebuilds rest op2
        · rw [decodeBytes_idx]
          exact decodeIdx_rebuilds rest k op2

/-- What decodes begins with its encoding. -/
theorem eq_encode_append_of_decodeBytes {bs : List Byte} {i : Instr} {len : Nat} (h : decodeBytes bs = .ok i len) :
    i.wellFormed = true ∧ ∃ tail, bs = encode i ++ tail ∧ len = (encode i).length := by
  have hr := decodeBytes_rebuilds bs
  rwa [h] at hr

/-- Settles O3, by running the decoder on the bytes. -/
theorem knownWordsDecode : Obligations.KnownWordsDecode :=
  ⟨rfl, rfl, rfl, rfl, rfl, rfl, rfl, rfl⟩

/-- Settles O5: the bytes are the encoding of what they decode to, and then bytes that were not looked at. -/
theorem encodeRebuildsDecoded : Obligations.EncodeRebuildsDecoded := by
  intro bs i len h
  obtain ⟨hwf, tail, rfl, rfl⟩ := eq_encode_append_of_decodeBytes h
  exact ⟨hwf, by simp, by simp⟩

end Sys2Proof
end

section
/-! The encoder read back by the decoder, instruction by instruction. -/

namespace Sys2Proof

/-- A 16-bit operand is read back from its two bytes, low byte first (R111, R113). -/
theorem withWord_halves (nn : Word) (rest : List Byte) (len : Nat) (k : Word → Instr) :
    withWord (loByte nn :: hiByte nn :: rest) len k = .ok (k nn) len := by
  simp [withWord]

/-- A bit number that fits its field is one of eight (R109). -/
theorem exists_of_bitNumberOk {b : Nat} (h : bitNumberOk b = true) : ∃ y : Fin 8, b = y :=
  ⟨⟨b, of_decide_eq_true h⟩, rfl⟩

/-- A restart address is eight times its field (R114). -/
theorem exists_of_restartOk {p : Byte} (h : restartOk p = true) : ∃ y : Fin 8, p = BitVec.ofNat 8 (8 * y) := by
  revert p
  decide

/-- Settles O4, by the cases of the instruction: a register, a pair or a condition has few codes, an operand byte stands as it is,
and a word is put together again from its halves. -/
theorem decodeReadsEncode : Obligations.DecodeReadsEncode := by
  intro i rest hwf
  cases i with
  -- Opcodes without fields, and at most operand bytes.
  | ldAtHlN | ldAtIxN | ldAtIyN | ldAAtBc | ldAAtDe | ldAtBcA | ldAtDeA | ldAIreg | ldARreg | ldIregA | ldRregA
  | ldSpHl | ldSpIx | ldSpIy | pushIx | pushIy | popIx | popIy
  | exDeHl | exAfAf | exx | exAtSpHl | exAtSpIx | exAtSpIy | ldi | ldir | ldd | lddr | cpi | cpir | cpd | cpdr
  | addAN | addAAtHl | addAAtIx | addAAtIy | adcAN | adcAAtHl | adcAAtIx | adcAAtIy
  | subN | subAtHl | subAtIx | subAtIy | sbcAN | sbcAAtHl | sbcAAtIx | sbcAAtIy
  | andN | andAtHl | andAtIx | andAtIy | xorN | xorAtHl | xorAtIx | xorAtIy
  | orN | orAtHl | orAtIx | orAtIy | cpN | cpAtHl | cpAtIx | cpAtIy
  | incAtHl | incAtIx | incAtIy | decAtHl | decAtIx | decAtIy | incIx | incIy | decIx | decIy
  | daa | cpl | neg | ccf | scf | nop | halt | di | ei | im0 | im1 | im2 | rlca | rla | rrca | rra
  | rlcAtHl | rlcAtIx | rlcAtIy | rlAtHl | rlAtIx | rlAtIy | rrcAtHl | rrcAtIx | rrcAtIy | rrAtHl | rrAtIx | rrAtIy
  | slaAtHl | slaAtIx | slaAtIy | sraAtHl | sraAtIx | sraAtIy | srlAtHl | srlAtIx | srlAtIy | rld | rrd
  | inAN | ini | inir | ind | indr | outNA | outi | otir | outd | otdr
  | jrE | jrCE | jrNcE | jrZE | jrNzE | jpHl | jpIx | jpIy | djnzE | ret | reti | retn => rfl
  -- A register field.
  | ldRR r r' => cases r <;> cases r' <;> rfl
  | ldRN r | ldRAtHl r | ldRAtIx r | ldRAtIy r | ldAtHlR r | ldAtIxR _ r | ldAtIyR _ r
  | addAR r | adcAR r | subR r | sbcAR r | andR r | xorR r | orR r | cpR r | incR r | decR r
  | rlcR r | rlR r | rrcR r | rrR r | slaR r | sraR r | srlR r | inRC r | outCR r => cases r <;> rfl
  -- A pair or a condition field.
  | addHlSs dd | adcHlSs dd | sbcHlSs dd | incSs dd | decSs dd => cases dd <;> rfl
  | pushQq qq | popQq qq => cases qq <;> rfl
  | addIxPp pp | addIyRr pp => cases pp <;> rfl
  | retCc cc => cases cc <;> rfl
  -- A 16-bit operand.
  | ldAAtNn | ldAtNnA | ldIxNn | ldIyNn | ldHlAtNn | ldIxAtNn | ldIyAtNn | ldAtNnHl | ldAtNnIx | ldAtNnIy
  | jpNn | callNn => exact withWord_halves _ rest _ _
  | ldDdNn dd | ldDdAtNn dd => cases dd <;> exact withWord_halves _ rest _ _
  | ldAtNnDd nn dd => cases dd <;> exact withWord_halves nn rest _ (.ldAtNnDd · _)
  | jpCcNn cc | callCcNn cc => cases cc <;> exact withWord_halves _ rest _ _
  -- A bit number, or a restart address.
  | bitR b r | setR b r | resR b r =>
    obtain ⟨y, rfl⟩ := exists_of_bitNumberOk hwf
    match y with
    | 0 | 1 | 2 | 3 | 4 | 5 | 6 | 7 => cases r <;> rfl
  | bitAtHl b | setAtHl b | resAtHl b | bitAtIx b | bitAtIy b | setAtIx b | setAtIy b | resAtIx b | resAtIy b =>
    obtain ⟨y, rfl⟩ := exists_of_bitNumberOk hwf
    match y with
    | 0 | 1 | 2 | 3 | 4 | 5 | 6 | 7 => rfl
  | rstP p =>
    obtain ⟨y, rfl⟩ := exists_of_restartOk hwf
    match y with
    | 0 | 1 | 2 | 3 | 4 | 5 | 6 | 7 => rfl

end Sys2Proof
end

section
/-! The byte sequences that select no instruction (R123 to R127). Operand bytes never decide it. -/

namespace Sys2Proof

section
variable (rest : List Byte)

@[simp] theorem withByte_ne_undocumented (len : Nat) (k : Byte → Instr) : withByte rest len k ≠ .undocumented := by
  unfold withByte
  split <;> nofun

@[simp] theorem withWord_ne_undocumented (len : Nat) (k : Word → Instr) : withWord rest len k ≠ .undocumented := by
  unfold withWord
  split <;> nofun

theorem regOrMem_ne_undocumented (code len : Nat) (onReg : Reg8 → Instr) (onMem : Instr) :
    regOrMem code len onReg onMem ≠ .undocumented := by
  unfold regOrMem
  split <;> nofun

@[simp] theorem orUndocumented_eq_undocumented (len : Nat) (o : Option Instr) :
    orUndocumented len o = .undocumented ↔ o = none := by
  cases o <;> simp [orUndocumented]

theorem decodeLow_ne_undocumented (y z : Nat) : decodeLow y z rest ≠ .undocumented := by
  unfold decodeLow
  split
  case h_5 | h_6 => exact regOrMem_ne_undocumented _ _ _ _
  all_goals split <;> simp

theorem decodeLoad_ne_undocumented (y z : Nat) : decodeLoad y z ≠ .undocumented := by
  unfold decodeLoad
  split <;> nofun

/-- Of the first bytes C0H to FFH only the prefixes select no instruction (R102, R121). -/
theorem isPrefixByte_of_decodeHigh {y z : Fin 8} (h : decodeHigh y z rest = .undocumented) :
    isPrefixByte (opcode 3 y z) = true := by
  match z with
  | 0 | 7 => cases h
  | 1 =>
    match y with
    | 0 | 1 | 2 | 3 | 4 | 5 | 6 | 7 => cases h
  | 2 | 4 => exact absurd h (withWord_ne_undocumented _ _ _)
  | 3 =>
    match y with
    | 0 => exact absurd h (withWord_ne_undocumented _ _ _)
    | 1 => rfl
    | 2 | 3 => exact absurd h (withByte_ne_undocumented _ _ _)
    | 4 | 5 | 6 | 7 => cases h
  | 5 =>
    match y with
    | 1 => exact absurd h (withWord_ne_undocumented _ _ _)
    | 0 | 2 | 4 | 6 => cases h
    | 3 | 5 | 7 => rfl
  | 6 => exact absurd h (withByte_ne_undocumented _ _ _)

/-- Every first byte but the prefixes selects an instruction (R121). -/
theorem isPrefixByte_of_decodePlain {op : Byte} (h : decodePlain op.toNat rest = .undocumented) :
    isPrefixByte op = true := by
  obtain ⟨x, y, z, rfl⟩ := exists_opcode op
  simp only [decodePlain, opcode_bits76, opcode_bits53, opcode_bits20] at h
  match x with
  | 0 => exact absurd h (decodeLow_ne_undocumented _ _ _)
  | 1 => exact absurd h (decodeLoad_ne_undocumented _ _)
  | 2 => exact absurd h (regOrMem_ne_undocumented _ _ _ _)
  | 3 => exact isPrefixByte_of_decodeHigh rest h

/-- Behind EDH the second byte decides (R123). -/
theorem decodeEd_undocumented_iff (n : Nat) : decodeEd n rest = .undocumented ↔ decodeEd n [] = .undocumented := by
  unfold decodeEd
  split
  · unfold decodeEdMid
    split
    case h_4 => split <;> simp
    all_goals rfl
  all_goals rfl

variable (k : Idx)

theorem decodeIdxOther_undocumented_iff (n : Nat) :
    decodeIdxOther k n rest = .undocumented ↔ decodeIdxOther k n [] = .undocumented := by
  unfold decodeIdxOther
  split
  case h_5 | h_6 | h_8 | h_10 | h_11 => simp
  case h_12 => split <;> simp
  all_goals rfl

/-- Behind DDH and FDH the second byte decides, unless it is CBH (R124). -/
theorem decodeIdx_undocumented_iff {n : Nat} (hn : n ≠ 0xCB) :
    decodeIdx k n rest = .undocumented ↔ decodeIdx k n [] = .undocumented := by
  simp only [decodeIdx, if_neg hn]
  split
  · unfold decodeIdxLoad
    split <;> simp
  · split <;> simp
  · exact decodeIdxOther_undocumented_iff rest k n

end

/-- The only rotate or shift code without an instruction is 110 (R125). -/
theorem rotIdx_eq_none_iff (k : Idx) (y : Fin 8) (d : Byte) : rotIdx k y d = none ↔ (y : Nat) = 6 := by
  match y with
  | 0 | 1 | 2 | 3 | 4 | 5 | 7 => exact iff_of_false nofun (by decide)
  | 6 => exact iff_of_true rfl rfl

/-- Behind DDH CBH and FDH CBH the fourth byte decides (R125). -/
theorem decodeIdxCb_undocumented_iff (k : Idx) (d op : Byte) : decodeIdxCb k d op.toNat = .undocumented ↔
    op.toNat % 8 ≠ 6 ∨ (0x30 ≤ op.toNat ∧ op.toNat ≤ 0x37) := by
  obtain ⟨x, y, z, rfl⟩ := exists_opcode op
  simp only [decodeIdxCb, opcode_bits76, opcode_bits53, opcode_bits20]
  rw [opcode_toNat]
  split
  next hz =>
    match x with
    | 0 =>
      refine (orUndocumented_eq_undocumented 4 _).trans ((rotIdx_eq_none_iff k y d).trans ?_)
      simp only [Fin.val_zero]
      omega
    | 1 | 2 | 3 =>
      simp only [reduceCtorEq, false_iff]
      omega
  next hz => simp [hz]

/-- DDH and FDH are the prefixes of the index registers (R102). -/
theorem exists_prefixByte {pre : Byte} (h : pre = 0xDD#8 ∨ pre = 0xFD#8) : ∃ k : Idx, pre = k.prefixByte := by
  obtain h | h := h
  · exact ⟨.ix, h⟩
  · exact ⟨.iy, h⟩

/-- Settles O6: no operand byte decides, so each clause is about one byte. -/
theorem undocumentedEncodings : Obligations.UndocumentedEncodings := by
  refine ⟨fun op rest h => ?_, fun op rest => ⟨?_, ?_⟩, fun pre op rest hpre hop => ?_, fun pre d op rest hpre => ?_⟩
  · cases hpre : isPrefixByte op with
    | true => rfl
    | false =>
      rw [decodeBytes_unprefixed hpre] at h
      exact hpre.symm.trans (isPrefixByte_of_decodePlain rest h)
  · change decodeCb op.toNat = .undocumented ↔ _
    revert op
    decide
  · change decodeEd op.toNat rest = .undocumented ↔ _
    rw [decodeEd_undocumented_iff]
    revert op
    decide
  · obtain ⟨k, rfl⟩ := exists_prefixByte hpre
    have hn : op.toNat ≠ 0xCB := fun hn => hop (BitVec.eq_of_toNat_eq hn)
    rw [decodeBytes_idx, decodeIdx_undocumented_iff rest k hn]
    revert op
    cases k <;> decide
  · obtain ⟨k, rfl⟩ := exists_prefixByte hpre
    rw [decodeBytes_idx]
    exact decodeIdxCb_undocumented_iff k d op

end Sys2Proof
end

section
/-! What more bytes can add to the decoder's answer (R128). -/

namespace Sys2Proof

/-- An instruction read stays read when more bytes follow (R128). -/
theorem decodeBytes_ok_append {bs : List Byte} {i : Instr} {len : Nat} (h : decodeBytes bs = .ok i len)
    (more : List Byte) : decodeBytes (bs ++ more) = .ok i len := by
  obtain ⟨hwf, tail, rfl, rfl⟩ := eq_encode_append_of_decodeBytes h
  rw [List.append_assoc]
  exact decodeReadsEncode i (tail ++ more) hwf

/-- Bytes that select no instruction select none when more bytes follow (R126). -/
theorem decodeBytes_undocumented_append {bs : List Byte} (h : decodeBytes bs = .undocumented) (more : List Byte) :
    decodeBytes (bs ++ more) = .undocumented := by
  obtain ⟨hfirst, hsecond, hindex, hfourth⟩ := undocumentedEncodings
  match bs with
  | [] => cases h
  | [op] => simp [decodeBytes, hfirst op [] h] at h
  | op :: op2 :: rest =>
    obtain rfl | rfl | ⟨k, rfl⟩ := eq_of_isPrefixByte (hfirst _ _ h)
    · exact h
    · exact ((hsecond op2 _).2.trans (hsecond op2 rest).2.symm).mpr h
    · rw [decodeBytes_idx] at h
      rw [List.cons_append, List.cons_append, decodeBytes_idx]
      by_cases hcb : op2.toNat = 0xCB
      · unfold decodeIdx at h ⊢
        rw [if_pos hcb] at h ⊢
        match rest with
        | [] | [_] => cases h
        | _ :: _ :: _ => exact h
      · rw [decodeIdx_undocumented_iff _ k hcb] at h ⊢
        exact h

theorem decodeBytes_encode {i : Instr} (hwf : i.wellFormed = true) :
    decodeBytes (encode i) = .ok i (encode i).length := by
  simpa using decodeReadsEncode i [] hwf

/-- Within an instruction the decoder asks for the next byte (R128). -/
theorem decodeBytes_more_of_encode {i : Instr} (hwf : i.wellFormed = true) {pre : List Byte} {b : Byte} {post : List Byte}
    (h : encode i = pre ++ b :: post) : decodeBytes pre = .more := by
  have whole := decodeBytes_encode hwf
  rw [h] at whole
  cases hpre : decodeBytes pre with
  | more => rfl
  | undocumented =>
    rw [decodeBytes_undocumented_append hpre] at whole
    cases whole
  | ok j len =>
    obtain ⟨-, hlen, -⟩ := encodeRebuildsDecoded pre j len hpre
    rw [decodeBytes_ok_append hpre] at whole
    injection whole with _ hwhole
    rw [hwhole, List.length_append, List.length_cons] at hlen
    omega

/-- No instruction is longer than four bytes (R100). -/
theorem encode_length_le (i : Instr) : (encode i).length ≤ 4 := by
  cases i <;> exact Nat.le_of_ble_eq_true rfl

end Sys2Proof
end

section
/-! The fetch from plain memory, byte by byte (R101). -/

namespace Sys2Proof.Machine

/-- The bytes stand at PC where memory answers with what it holds. -/
def State.HoldsBytes (s : State) (bs : List Byte) : Prop :=
  ∀ k : Nat, (h : k < bs.length) →
    s.plat.backed (s.pc + BitVec.ofNat 16 k) = true ∧ s.peek (s.pc + BitVec.ofNat 16 k) = bs[k]

theorem holdsAtPc_iff (s : State) (i : Instr) : HoldsAtPc s i ↔ s.HoldsBytes (encode i) := Iff.rfl

/-- How many of the fetch cycles of these bytes are M1 cycles (R101). -/
def m1Count : List Byte → Nat
  | [] => 0
  | [_] => 1
  | op :: _ :: _ => if isPrefixByte op then 2 else 1

/-- The state in which these bytes of an instruction have been fetched from plain memory. -/
def State.pastBytes (s : State) (bs : List Byte) : State :=
  { s with pc := s.pc + BitVec.ofNat 16 bs.length, r := refreshBy (m1Count bs) s.r }

theorem refreshBy_succ (n : Nat) (r : Byte) : refreshBy (n + 1) r = refreshNext (refreshBy n r) := by
  induction n generalizing r with
  | zero => rfl
  | succ n ih => exact ih (refreshNext r)

/-- One byte more is one M1 cycle more, or none. -/
theorem m1Count_concat (bs : List Byte) (b : Byte) :
    m1Count (bs ++ [b]) = if isM1Byte bs then m1Count bs + 1 else m1Count bs := by
  match bs with
  | [] => rfl
  | [op] => cases h : isPrefixByte op <;> simp [m1Count, isM1Byte, h]
  | _ :: _ :: _ => rfl

/-- The M1 cycles of an instruction are those of its bytes (R491). -/
theorem m1Count_encode {i : Instr} (hwf : i.wellFormed = true) : m1Count (encode i) = m1Cycles i := by
  have h := decodeBytes_encode hwf
  unfold m1Cycles
  match henc : encode i with
  | [] => rfl
  | [op] =>
    rw [henc] at h
    cases hpre : isPrefixByte op with
    | false => simp [m1Count, hpre]
    | true => simp [decodeBytes, hpre] at h
  | _ :: _ :: _ => rfl

section
variable {s : State} {pre post : List Byte} {b : Byte}

theorem State.HoldsBytes.read (h : s.HoldsBytes (pre ++ b :: post)) :
    s.plat.backed (s.pc + BitVec.ofNat 16 pre.length) = true ∧ s.read (s.pc + BitVec.ofNat 16 pre.length) = b := by
  obtain ⟨hb, hp⟩ := h pre.length (by simp)
  refine ⟨hb, (Platform.readVal_backed _ _ hb).trans (hp.trans ?_)⟩
  simp

/-- The next byte fetched (R101). -/
theorem State.afterFetchByte_pastBytes (q : Quiet s) (h : s.HoldsBytes (pre ++ b :: post)) :
    (s.pastBytes pre).afterFetchByte (isM1Byte pre) = s.pastBytes (pre ++ [b]) := by
  have hquiet : (s.pastBytes pre).afterRead (s.pastBytes pre).pc = s.pastBytes pre :=
    State.afterRead_backed _ _ q h.read.1
  have hpc : s.pc + BitVec.ofNat 16 pre.length + 1 = s.pc + BitVec.ofNat 16 (pre ++ [b]).length := by
    rw [List.length_append, BitVec.add_assoc, BitVec.ofNat_add]
    rfl
  rw [State.afterFetchByte_eq, hquiet]
  unfold State.pastBytes
  rw [m1Count_concat]
  dsimp only
  rw [hpc]
  cases isM1Byte pre with
  | false => rfl
  | true => rw [if_pos rfl, if_pos rfl, refreshBy_succ]

/-- One fetch cycle of plain memory adds its byte to those read (R128). -/
theorem fetchFrom_ok (q : Quiet s) (h : s.HoldsBytes (pre ++ b :: post)) (fuel : Nat) {i : Instr} {len : Nat}
    (hd : decodeBytes (pre ++ [b]) = .ok i len) :
    fetchFrom (fuel + 1) pre (s.pastBytes pre) = some (i, s.pastBytes (pre ++ [b])) := by
  have hbyte : (s.pastBytes pre).read (s.pastBytes pre).pc = b := h.read.2
  rw [fetchFrom, hbyte, hd, State.afterFetchByte_pastBytes q h]

theorem fetchFrom_more (q : Quiet s) (h : s.HoldsBytes (pre ++ b :: post)) (fuel : Nat)
    (hd : decodeBytes (pre ++ [b]) = .more) :
    fetchFrom (fuel + 1) pre (s.pastBytes pre) = fetchFrom fuel (pre ++ [b]) (s.pastBytes (pre ++ [b])) := by
  have hbyte : (s.pastBytes pre).read (s.pastBytes pre).pc = b := h.read.2
  rw [fetchFrom, hbyte, hd, State.afterFetchByte_pastBytes q h]

end

/-- Bytes already read that select no instruction end the fetch (R126). -/
theorem fetchFrom_undocumented (fuel : Nat) {bs : List Byte} {s : State}
    (hd : decodeBytes (bs ++ [s.read s.pc]) = .undocumented) : fetchFrom fuel bs s = none := by
  cases fuel with
  | zero => rfl
  | succ fuel => rw [fetchFrom, hd]

/-- The rest of a well-formed instruction is fetched from plain memory (R101, R128). -/
theorem fetchFrom_encode {s : State} {i : Instr} (hwf : i.wellFormed = true) (q : Quiet s)
    (h : s.HoldsBytes (encode i)) {pre post : List Byte} {b : Byte} (hsplit : encode i = pre ++ b :: post) {fuel : Nat}
    (hfuel : post.length ≤ fuel) : fetchFrom (fuel + 1) pre (s.pastBytes pre) = some (i, s.pastBytes (encode i)) := by
  have hat : s.HoldsBytes (pre ++ b :: post) := hsplit ▸ h
  induction post generalizing pre b fuel with
  | nil =>
    have hd := decodeBytes_encode hwf
    rw [hsplit] at hd ⊢
    exact fetchFrom_ok q hat fuel hd
  | cons c post ih =>
    have hsplit' : encode i = (pre ++ [b]) ++ c :: post := by simp [hsplit]
    cases fuel with
    | zero => exact absurd hfuel (Nat.not_succ_le_zero _)
    | succ fuel =>
      rw [fetchFrom_more q hat (fuel + 1) (decodeBytes_more_of_encode hwf hsplit')]
      exact ih hsplit' (Nat.le_of_succ_le_succ hfuel) (hsplit' ▸ h)

/-- Bytes in plain memory that select no instruction are not fetched to an end (R126). -/
theorem fetchFrom_none {s : State} (q : Quiet s) {bs : List Byte} (h : s.HoldsBytes bs)
    (hd : decodeBytes bs = .undocumented) (pre post : List Byte) (hsplit : bs = pre ++ post) (fuel : Nat) :
    fetchFrom fuel pre (s.pastBytes pre) = none := by
  subst hsplit
  induction post generalizing pre fuel with
  | nil =>
    rw [List.append_nil] at hd
    exact fetchFrom_undocumented fuel (decodeBytes_undocumented_append hd _)
  | cons b post ih =>
    have hassoc : pre ++ b :: post = (pre ++ [b]) ++ post := by simp
    cases fuel with
    | zero => rfl
    | succ fuel =>
      cases hb : decodeBytes (pre ++ [b]) with
      | more =>
        rw [fetchFrom_more q h fuel hb]
        rw [hassoc] at h hd
        exact ih (pre ++ [b]) fuel h hd
      | undocumented =>
        exact fetchFrom_undocumented _ (h.read.2.symm ▸ hb)
      | ok i len =>
        rw [hassoc, decodeBytes_ok_append hb] at hd
        cases hd

/-- Before the first byte nothing has been fetched. -/
theorem State.pastBytes_nil (s : State) : s.pastBytes [] = s := by
  unfold State.pastBytes
  rw [List.length_nil, BitVec.add_zero]
  rfl

/-- The state an instruction's meaning starts in is the one after its bytes (R101). -/
theorem State.pastBytes_encode (s : State) {i : Instr} (hwf : i.wellFormed = true) :
    s.beginInstr.pastBytes (encode i) = s.fetched i := by
  unfold State.pastBytes
  rw [m1Count_encode hwf]
  rfl

/-- A step of a running machine is an instruction (R436). -/
theorem step_running {s : State} (h : Running s) : step s = stepInstr s := by
  obtain ⟨hreset, hnmi, hint, hhalted⟩ := h
  simp [step, hreset, hnmi, hint, hhalted]

/-- Settles O8: the fetch meets no instruction within the bytes and none behind them. -/
theorem undocumentedStepRefused : Obligations.UndocumentedStepRefused := by
  intro s bs hrun q _ hd hat
  have hfetch : s.fetch = none := by
    have h := fetchFrom_none (s := s.beginInstr) q hat hd [] bs rfl 4
    rwa [State.pastBytes_nil] at h
  rw [step_running hrun, stepInstr, hfetch]

/-- The fetch of a well-formed instruction from plain memory (R101, R128). -/
theorem State.fetch_encode {s : State} {i : Instr} (hwf : i.wellFormed = true) (q : Quiet s) (h : HoldsAtPc s i) :
    s.fetch = some (i, s.fetched i) := by
  have hd := decodeBytes_encode hwf
  cases henc : encode i with
  | nil =>
    rw [henc] at hd
    cases hd
  | cons b post =>
    have hlen := encode_length_le i
    rw [henc, List.length_cons] at hlen
    have hfetch := fetchFrom_encode (s := s.beginInstr) hwf q ((holdsAtPc_iff s i).mp h) (pre := []) henc (Nat.le_of_succ_le_succ hlen)
    rwa [State.pastBytes_nil, State.pastBytes_encode s hwf] at hfetch

/-- Settles O7: the fetch ends with the last byte of the instruction, its meaning runs, the inputs are sampled. -/
theorem stepRunsInstruction : Obligations.StepRunsInstruction := by
  intro s t i hwf hrun q hat hexec
  refine ⟨?_, State.sampleInputs_sampled (t.tick _)⟩
  rw [step_running hrun, stepInstr, State.fetch_encode hwf q hat]
  simp only [hexec]

end Sys2Proof.Machine
end

section
/-! Indexed and relative addresses (R115, R116). -/

namespace Sys2Proof.Machine

/-- A word and a displacement byte added modulo 2^16, the byte read as two's complement (R8, R116). -/
theorem add_sext16_toNat (a : Word) (d : Byte) :
    ((a + sext16 d).toNat : Int) = ((a.toNat : Int) + d.toInt) % 65536 := by
  have hd : ((sext16 d).toNat : Int) = d.toInt % 65536 := by
    rw [sext16, BitVec.signExtend, BitVec.toNat_ofInt]
    omega
  rw [BitVec.toNat_add]
  omega

/-- Settles O10: each of the three addresses is such a sum. -/
theorem displacementArithmetic : Obligations.DisplacementArithmetic :=
  fun _ d => ⟨add_sext16_toNat _ d, add_sext16_toNat _ d, add_sext16_toNat _ d⟩

end Sys2Proof.Machine
end

section
/-! Frames: which pieces of the CPU's own state an operation can change, said once per operation. -/

namespace Sys2Proof.Machine

/-- What neither of two operations changes stays through both. -/
theorem Frame.trans {s t u : State} {c c' : List Loc} (h : Frame s t c) (h' : Frame t u c') : Frame s u (c ++ c') := by
  intro x hx
  obtain ⟨hc, hc'⟩ := not_or.mp (fun hor => hx (List.mem_append.mpr hor))
  exact (h' x hc').trans (h x hc)

/-- A machine cycle changes nothing of the CPU's own state. -/
theorem State.withPlat_frame (s : State) (p : Platform) : Frame s (s.withPlat p) [] :=
  fun x _ => s.val_withPlat p x

theorem State.afterRead_frame (s : State) (a : Word) : Frame s (s.afterRead a) [] := s.withPlat_frame _

theorem State.write_frame (s : State) (a : Word) (v : Byte) : Frame s (s.write a v) [] := s.withPlat_frame _

/-- A write of a register changes that register alone (R104). -/
theorem State.setReg_frame (s : State) (r : Reg8) (v : Byte) : Frame s (s.setReg r v) [regLoc r] := by
  intro x hx
  -- A piece of state is the register, which `hx` excludes, or one that the update does not write.
  cases r <;> cases x <;> simp [regLoc] at hx <;> rfl

theorem State.withI_frame (s : State) (v : Byte) : Frame s { s with i := v } [.i] := by
  intro x hx
  cases x <;> simp at hx <;> rfl

theorem State.withR_frame (s : State) (v : Byte) : Frame s { s with r := v } [.r] := by
  intro x hx
  cases x <;> simp at hx <;> rfl

/-- The model's own note that IFF2 was read is no piece of the CPU's state (log 6). -/
theorem State.withIffRead_frame (s : State) (b : Bool) : Frame s { s with iffRead := b } [] := by
  intro x _
  cases x <;> rfl

/-- A write of flags that keeps C changes no piece of state but the other bits of F (R37). -/
theorem State.setFlags_frame_of_c {s : State} {g : Flags} (hc : g.c = s.f.c) : Frame s (s.setFlags g) flagsButC := by
  intro x hx
  cases x
  case flagC => exact congrArg Bool.toNat hc
  all_goals simp [flagsButC] at hx <;> rfl

end Sys2Proof.Machine
end

section
/-! The 8-bit loads (R141 to R161). -/

namespace Sys2Proof.Machine

/-- A write of a register: what the register holds then, and what stays (R104). -/
theorem State.setReg_loads (s : State) (r : Reg8) (v : Byte) :
    (s.setReg r v).reg r = v ∧ Frame s (s.setReg r v) [regLoc r] ∧ SameMem s (s.setReg r v) :=
  ⟨s.reg_setReg r v, s.setReg_frame r v, .of_mem (.refl s) (by rw [State.setReg_plat])⟩

/-- A read cycle, nobody else on the bus, and a write of a register: of the CPU the register alone changes (R72, R104). -/
theorem State.setReg_afterRead_loads (s : State) (a : Word) (r : Reg8) (v : Byte) (q : Quiet s) :
    ((s.afterRead a).setReg r v).reg r = v ∧ Frame s ((s.afterRead a).setReg r v) [regLoc r] ∧
    SameMem s ((s.afterRead a).setReg r v) := by
  obtain ⟨hreg, hframe, hmem⟩ := (s.afterRead a).setReg_loads r v
  obtain ⟨-, -, hread⟩ := s.afterRead_quiet a q
  exact ⟨hreg, (s.afterRead_frame a).trans hframe, hread.trans hmem⟩

/-- Settles O11: both forms are one write of a register. -/
theorem loadRegister : Obligations.LoadRegister :=
  fun r _ _ s => ⟨⟨_, rfl, s.setReg_loads r _⟩, ⟨_, rfl, s.setReg_loads r _⟩⟩

/-- Settles O12: each form is a read cycle at the operand's address and a write of the register, A in the last three. -/
theorem loadFromMemory : Obligations.LoadFromMemory := by
  intro r d nn s q
  constructor
  all_goals
    intro x hx
    simp only [List.mem_cons, List.not_mem_nil, or_false] at hx
  · rcases hx with rfl | rfl | rfl <;> exact ⟨_, rfl, s.setReg_afterRead_loads _ r _ q⟩
  · rcases hx with rfl | rfl | rfl <;> exact ⟨_, rfl, s.setReg_afterRead_loads _ .a _ q⟩

/-- Settles O13: each form is one write cycle, at its operand's address. -/
theorem storeToMemory : Obligations.StoreToMemory := by
  intro r d n nn s q x hx
  simp only [List.mem_cons, List.not_mem_nil, or_false] at hx
  rcases hx with rfl | rfl | rfl | rfl | rfl | rfl | rfl | rfl | rfl <;>
    exact ⟨_, rfl, s.write_stored _ _ q, s.write_frame _ _⟩

/-- LD A,I and LD A,R write A and, from the same byte, all of F but C (R158, R159). -/
theorem State.loadIR_frame (s : State) (v : Byte) :
    Frame s { s.setFlags (ldAIFlags s.f v s.iff2) with a := v, iffRead := true } (.a :: flagsButC) :=
  ((s.setReg_frame .a v).trans (State.setFlags_frame_of_c (g := ldAIFlags s.f v s.iff2) rfl)).trans
    (State.withIffRead_frame _ true)

/-- Settles O14: the loads of A are one load of a byte with its flags; the loads of I and R write that register alone. -/
theorem loadInterruptRefresh : Obligations.LoadInterruptRefresh := by
  intro s
  refine ⟨?_, ⟨_, rfl, rfl, s.withI_frame s.a, .refl s⟩, ⟨_, rfl, rfl, s.withR_frame s.a, .refl s⟩⟩
  intro x hx
  simp only [List.mem_cons, List.not_mem_nil, or_false] at hx
  rcases hx with rfl | rfl <;> exact ⟨_, rfl, rfl, rfl, rfl, rfl, rfl, rfl, s.loadIR_frame _, .refl s⟩

end Sys2Proof.Machine
end

section
/-! Frames of the 16-bit operations (R77 to R80, R105): which pieces of the CPU's own state each changes, and whether it keeps
memory. -/

namespace Sys2Proof.Machine

theorem State.withIx_frame (s : State) (v : Word) : Frame s { s with ix := v } [.ix] := by
  intro x hx
  cases x <;> simp at hx <;> rfl

theorem State.withIy_frame (s : State) (v : Word) : Frame s { s with iy := v } [.iy] := by
  intro x hx
  cases x <;> simp at hx <;> rfl

theorem State.withSp_frame (s : State) (v : Word) : Frame s { s with sp := v } [.sp] := by
  intro x hx
  cases x <;> simp at hx <;> rfl

/-- A new SP and whatever the machine cycles left outside the CPU: of the CPU SP alone changes. -/
theorem State.withSpPlat_frame (s : State) (v : Word) (p : Platform) : Frame s { s with sp := v, plat := p } [.sp] :=
  (s.withSp_frame v).trans (State.withPlat_frame { s with sp := v } p)

/-- A write of a pair of R105 changes its two halves alone: the first three pairs are those of R106, the fourth is SP. -/
theorem State.setPair_frame (s : State) (dd : Pair) (v : Word) : Frame s (s.setPair dd v) (pairLocs dd) := by
  cases dd with
  | bc => exact s.setStackPair_frame .bc v
  | de => exact s.setStackPair_frame .de v
  | hl => exact s.setStackPair_frame .hl v
  | sp => exact s.withSp_frame v

/-- Two operations that keep memory, one after the other. -/
theorem frame_sameMem_trans {s t u : State} {c c' : List Loc} (h : Frame s t c ∧ SameMem s t)
    (h' : Frame t u c' ∧ SameMem t u) : Frame s u (c ++ c') ∧ SameMem s u :=
  ⟨h.left.trans h'.left, h.right.trans h'.right⟩

/-- A write of a pair keeps all but its two halves, and memory (R105). -/
theorem State.setPair_keeps (s : State) (dd : Pair) (v : Word) :
    Frame s (s.setPair dd v) (pairLocs dd) ∧ SameMem s (s.setPair dd v) :=
  ⟨s.setPair_frame dd v, .of_mem (.refl s) (by rw [State.setPair_plat])⟩

/-- A write of a stack pair keeps all but its two halves, and memory (R106). -/
theorem State.setStackPair_keeps (s : State) (qq : StackPair) (v : Word) :
    Frame s (s.setStackPair qq v) (stackPairLocs qq) ∧ SameMem s (s.setStackPair qq v) :=
  ⟨s.setStackPair_frame qq v, .of_mem (.refl s) (by rw [State.setStackPair_plat])⟩

theorem State.withIx_keeps (s : State) (v : Word) :
    Frame s { s with ix := v } [.ix] ∧ SameMem s { s with ix := v } :=
  ⟨s.withIx_frame v, .refl s⟩

theorem State.withIy_keeps (s : State) (v : Word) :
    Frame s { s with iy := v } [.iy] ∧ SameMem s { s with iy := v } :=
  ⟨s.withIy_frame v, .refl s⟩

theorem State.withSp_keeps (s : State) (v : Word) :
    Frame s { s with sp := v } [.sp] ∧ SameMem s { s with sp := v } :=
  ⟨s.withSp_frame v, .refl s⟩

/-- Two read cycles, nobody else on the bus, change nothing of the CPU and no byte of memory (R78). -/
theorem State.afterRead16_keeps (s : State) (a : Word) (q : Quiet s) :
    Frame s (s.afterRead16 a) [] ∧ SameMem s (s.afterRead16 a) := by
  obtain ⟨-, -, hmem⟩ := s.afterRead16_quiet a q
  exact ⟨(s.afterRead_frame a).trans (State.afterRead_frame _ _), hmem⟩

/-- Two write cycles change nothing of the CPU (R79). -/
theorem State.write16_frame (s : State) (a v : Word) : Frame s (s.write16 a v) [] :=
  (s.write_frame a _).trans (State.write_frame _ _ _)

/-- A push changes, of the CPU, SP alone (R80). -/
theorem State.push16_frame (s : State) (v : Word) : Frame s (s.push16 v) [.sp] := by
  rw [State.push16_eq]
  exact s.withSpPlat_frame _ _

/-- A pop, nobody else on the bus, changes SP alone of the CPU and no byte of memory (R80). -/
theorem State.afterPop16_keeps (s : State) (q : Quiet s) : Frame s s.afterPop16 [.sp] ∧ SameMem s s.afterPop16 := by
  obtain ⟨-, -, hmem⟩ := s.afterPop16_quiet q
  refine ⟨?_, hmem⟩
  rw [State.afterPop16_eq]
  exact s.withSpPlat_frame _ _

/-- The word read from backed memory as a number, the low byte at the lower address (R77, R78). -/
theorem State.read16_backed_toNat (s : State) (a : Word) (q : Quiet s) (h : s.plat.backed a = true)
    (h' : s.plat.backed (a + 1) = true) :
    (s.read16 a).toNat = (s.peek a).toNat + 256 * (s.peek (a + 1)).toNat := by
  rw [s.read16_backed a q h h', wordOf_toNat, Nat.add_comm]

end Sys2Proof.Machine
end

section
/-! The 16-bit loads and the stack (R171 to R190). -/

namespace Sys2Proof.Machine

/-- Settles O15: each form is one write of its destination. -/
theorem loadPairImmediate : Obligations.LoadPairImmediate := by
  intro dd nn s
  refine ⟨⟨_, rfl, s.pair_setPair dd nn, s.setPair_keeps dd nn⟩, ⟨_, rfl, rfl, s.withIx_keeps nn⟩,
    ⟨_, rfl, rfl, s.withIy_keeps nn⟩, fun x hx => ?_⟩
  simp only [List.mem_cons, List.not_mem_nil, or_false] at hx
  rcases hx with rfl | rfl | rfl <;> exact ⟨_, rfl, rfl, s.withSp_keeps _⟩

/-- Settles O16: each form is the two read cycles at `nn` and then the write of its destination. -/
theorem loadPairFromMemory : Obligations.LoadPairFromMemory := by
  intro dd nn s q
  have hread := s.afterRead16_keeps nn q
  refine ⟨⟨_, rfl, ?_, ?_⟩, ⟨_, rfl, ?_, ?_⟩, ⟨_, rfl, rfl, ?_⟩, ⟨_, rfl, rfl, ?_⟩, s.read16_backed_toNat nn q⟩
  · exact State.pair_setPair _ .hl _
  · exact frame_sameMem_trans hread (State.setPair_keeps _ .hl _)
  · exact State.pair_setPair _ dd _
  · exact frame_sameMem_trans hread (State.setPair_keeps _ dd _)
  · exact frame_sameMem_trans hread (State.withIx_keeps _ _)
  · exact frame_sameMem_trans hread (State.withIy_keeps _ _)

/-- Settles O17: each form is the two write cycles of `write16` at `nn`. -/
theorem storePairToMemory : Obligations.StorePairToMemory := by
  intro dd nn s q
  have store (v : Word) : Stored16 s (s.write16 nn v) nn v ∧ Frame s (s.write16 nn v) [] := by
    obtain ⟨-, -, hstored⟩ := s.write16_quiet nn v q
    exact ⟨hstored, s.write16_frame nn v⟩
  intro x hx
  simp only [List.mem_cons, List.not_mem_nil, or_false] at hx
  rcases hx with rfl | rfl | rfl | rfl <;> exact ⟨_, rfl, store _⟩

/-- Settles O18: each form is `push16` of its word. -/
theorem pushWord : Obligations.PushWord := by
  intro qq s q
  have push (v : Word) : (s.push16 v).sp = s.sp - 2 ∧ Stored16 s (s.push16 v) (s.sp - 2) v ∧
      Frame s (s.push16 v) [.sp] := by
    obtain ⟨-, -, hstored⟩ := s.push16_quiet v q
    exact ⟨s.push16_sp v, hstored, s.push16_frame v⟩
  intro x hx
  simp only [List.mem_cons, List.not_mem_nil, or_false] at hx
  rcases hx with rfl | rfl | rfl <;> exact ⟨_, rfl, push _⟩

/-- Settles O19: each form is `pop16` and then the write of its pair; the word popped is the word read at SP. -/
theorem popWord : Obligations.PopWord := by
  intro qq s q
  have hpop := s.afterPop16_keeps q
  have hsp : s.afterPop16.sp = s.sp + 2 := s.afterPop16_sp
  refine ⟨⟨_, rfl, ?_, ?_, ?_⟩, ⟨_, rfl, rfl, hsp, ?_⟩, ⟨_, rfl, rfl, hsp, ?_⟩, s.read16_backed_toNat s.sp q⟩
  · exact State.stackPair_setStackPair _ qq _
  · exact (State.setStackPair_sp _ qq _).trans hsp
  · exact frame_sameMem_trans hpop (State.setStackPair_keeps _ qq _)
  · exact frame_sameMem_trans hpop (State.withIx_keeps _ _)
  · exact frame_sameMem_trans hpop (State.withIy_keeps _ _)

end Sys2Proof.Machine
end

section
/-! Frames of the exchange and block operations (R200 to R215). -/

namespace Sys2Proof.Machine

/-- A frame may name more than what changes. -/
theorem Frame.mono {s t : State} {c c' : List Loc} (h : Frame s t c) (hsub : c ⊆ c') : Frame s t c' :=
  fun x hx => h x (fun hc => hx (hsub hc))

theorem State.withPc_frame (s : State) (v : Word) : Frame s { s with pc := v } [.pc] := by
  intro x hx
  cases x <;> simp at hx <;> rfl

/-- A write of flags that keeps S, Z and C changes no piece of state but the other bits of F (R37). -/
theorem State.setFlags_frame_of_szc {s : State} {g : Flags} (hs : g.s = s.f.s) (hz : g.z = s.f.z) (hc : g.c = s.f.c) :
    Frame s (s.setFlags g) [.flagH, .flagPV, .flagN, .flagX5, .flagX3] := by
  intro x hx
  cases x
  case flagS => exact congrArg Bool.toNat hs
  case flagZ => exact congrArg Bool.toNat hz
  case flagC => exact congrArg Bool.toNat hc
  all_goals simp at hx <;> rfl

/-- The read and write cycles at the top of the stack change nothing of the CPU (R203). -/
theorem State.swapTop_frame (s : State) (v : Word) : Frame s (s.swapTop v) [] := by
  rw [State.swapTop_eq]
  exact s.withPlat_frame _

/-- A repetition is a write of PC, or none (R214). -/
theorem State.repeatIf_eq (s : State) {again : Bool} {p : Prop} [Decidable p] (h : again = true ↔ p) :
    s.repeatIf again = { s with pc := if p then s.pc - 2 else s.pc } := by
  unfold State.repeatIf
  by_cases hp : p
  · rw [if_pos (h.mpr hp), if_pos hp]
    rfl
  · rw [if_neg (mt h.mp hp), if_neg hp]

end Sys2Proof.Machine
end

section
/-! The exchanges (R200 to R205). -/

namespace Sys2Proof.Machine

/-- EX AF,AF' moves A, F and their alternates and nothing else (R201). -/
theorem State.exchangeAf_frame (s : State) :
    Frame s { s with a := s.altA, f := s.altF, altA := s.a, altF := s.f } ([.a, .altA, .altF] ++ allFlags) := by
  intro x hx
  -- A piece of state is one of those named, which `hx` excludes, or one that the update does not write.
  cases x <;> simp [allFlags] at hx <;> rfl

/-- EXX moves B to L and their alternates and nothing else (R202). -/
theorem State.exchangeSets_frame (s : State) :
    Frame s { s with
      b := s.altB, c := s.altC, d := s.altD, e := s.altE, h := s.altH, l := s.altL,
      altB := s.b, altC := s.c, altD := s.d, altE := s.e, altH := s.h, altL := s.l }
      [.b, .c, .d, .e, .h, .l, .altB, .altC, .altD, .altE, .altH, .altL] := by
  intro x hx
  cases x <;> simp at hx <;> rfl

/-- Settles O21: EX DE,HL is two writes of pairs, the other two are one update each. -/
theorem exchangeRegisters : Obligations.ExchangeRegisters := by
  intro s
  refine ⟨⟨_, rfl, s.pair_setPair .de s.hl, State.pair_setPair _ .hl s.de, ?_⟩,
    ⟨_, rfl, rfl, rfl, rfl, rfl, s.exchangeAf_frame, .refl s⟩,
    ⟨_, rfl, rfl, rfl, rfl, rfl, rfl, rfl, s.exchangeSets_frame, .refl s⟩⟩
  exact frame_sameMem_trans (s.setPair_keeps .de s.hl) (State.setPair_keeps _ .hl s.de)

/-- Settles O22: in each form the top of the stack gets the old register and then the register the word read before. -/
theorem exchangeStackTop : Obligations.ExchangeStackTop := by
  intro s q
  have stored (v : Word) : Stored16 s (s.swapTop v) s.sp v := by
    obtain ⟨-, -, hstored⟩ := s.swapTop_quiet v q
    exact hstored
  refine ⟨⟨_, rfl, ?_, (stored s.hl).of_mem rfl, ?_⟩, ⟨_, rfl, rfl, (stored s.ix).of_mem rfl, ?_⟩,
    ⟨_, rfl, rfl, (stored s.iy).of_mem rfl, ?_⟩⟩
  · exact State.pair_setPair _ .hl _
  · exact (s.swapTop_frame s.hl).trans (State.setPair_frame _ .hl _)
  · exact (s.swapTop_frame s.ix).trans (State.withIx_frame _ _)
  · exact (s.swapTop_frame s.iy).trans (State.withIy_frame _ _)

end Sys2Proof.Machine
end

section
/-! One iteration of a block transfer (R206 to R209). -/

namespace Sys2Proof.Machine

section
variable (s : State) (delta : Word)

theorem State.blockMove_de : (s.blockMove delta).de = s.de + delta := wordOf_hiByte_loByte _

theorem State.blockMove_hl : (s.blockMove delta).hl = s.hl + delta := wordOf_hiByte_loByte _

theorem State.blockMove_bc : (s.blockMove delta).bc = s.bc - 1 := wordOf_hiByte_loByte _

/-- The byte read at HL is stored at DE (R206). -/
theorem State.blockMove_stored (q : Quiet s) : Stored s (s.blockMove delta) s.de (s.read s.hl) := by
  obtain ⟨hq, hmap, hmem⟩ := s.afterRead_quiet s.hl q
  have hstored : Stored s ((s.afterRead s.hl).write s.de (s.read s.hl)) s.de (s.read s.hl) :=
    .of_same hmap hmem (State.write_stored _ _ _ hq)
  exact hstored.of_mem rfl

/-- A block transfer writes, of the CPU, the three pairs and F without S, Z and C (R206, R215). -/
theorem State.blockMove_frame : Frame s (s.blockMove delta)
    [.d, .e, .h, .l, .b, .c, .flagH, .flagPV, .flagN, .flagX5, .flagX3] := by
  have hcycles := (s.afterRead_frame s.hl).trans (State.write_frame _ s.de (s.read s.hl))
  have hpointers := (hcycles.trans (State.setPair_frame _ .de (s.de + delta))).trans
    (State.setPair_frame _ .hl (s.hl + delta))
  have hcount := hpointers.trans (State.setPair_frame _ .bc (s.bc - 1))
  exact hcount.trans (State.setFlags_frame_of_szc (g := blockMoveFlags s.f (s.bc - 1)) rfl rfl rfl)

end

/-- Settles O23: each form is one iteration and then, in the repeating ones, a write of PC. -/
theorem blockTransfer : Obligations.BlockTransfer := by
  intro s q x hx
  have hexec : exec x.1 s = .next ((s.blockMove x.2.1).repeatIf (x.2.2 && s.bc - 1 != 0#16)) := by
    simp only [List.mem_cons, List.not_mem_nil, or_false] at hx
    rcases hx with rfl | rfl | rfl | rfl <;> rfl
  rw [State.repeatIf_eq (p := x.2.2 = true ∧ s.bc - 1 ≠ 0#16) _ (by simp)] at hexec
  refine ⟨_, hexec, (s.blockMove_stored x.2.1 q).of_mem rfl, s.blockMove_de x.2.1, s.blockMove_hl x.2.1,
    s.blockMove_bc x.2.1, rfl, rfl, rfl, rfl, ?_⟩
  exact ((s.blockMove_frame x.2.1).trans (State.withPc_frame _ _)).mono (by decide)

end Sys2Proof.Machine
end

section
/-! One iteration of a block search (R210 to R213). -/

namespace Sys2Proof.Machine

section
variable (s : State) (delta : Word)

theorem State.blockSearch_hl : (s.blockSearch delta).hl = s.hl + delta := wordOf_hiByte_loByte _

theorem State.blockSearch_bc : (s.blockSearch delta).bc = s.bc - 1 := wordOf_hiByte_loByte _

/-- A match is a difference of 0 (R210). -/
theorem State.blockSearch_z : (s.blockSearch delta).f.z = (s.a == s.read s.hl) := by
  have hz : (s.blockSearch delta).f.z = (s.a - s.read s.hl == 0#8) := rfl
  rw [hz, Bool.eq_iff_iff, beq_iff_eq, beq_iff_eq, BitVec.sub_eq_iff_eq_add, BitVec.zero_add]

/-- A block search only reads memory (R210). -/
theorem State.blockSearch_sameMem (q : Quiet s) : SameMem s (s.blockSearch delta) := by
  obtain ⟨-, -, hmem⟩ := s.afterRead_quiet s.hl q
  exact hmem.of_mem rfl

/-- A block search writes, of the CPU, HL, BC and F without C (R210, R215). -/
theorem State.blockSearch_frame : Frame s (s.blockSearch delta) ([.h, .l, .b, .c] ++ flagsButC) := by
  have hpointer := (s.afterRead_frame s.hl).trans (State.setPair_frame _ .hl (s.hl + delta))
  have hcount := hpointer.trans (State.setPair_frame _ .bc (s.bc - 1))
  exact hcount.trans (State.setFlags_frame_of_c (g := blockSearchFlags s.f s.a (s.read s.hl) (s.bc - 1)) rfl)

end

/-- Settles O24: each form is one iteration and then, in the repeating ones, a write of PC. -/
theorem blockSearch : Obligations.BlockSearch := by
  intro s q x hx
  have hexec : exec x.1 s = .next ((s.blockSearch x.2.1).repeatIf
      (x.2.2 && (s.bc - 1 != 0#16 && s.a - s.read s.hl != 0#8))) := by
    simp only [List.mem_cons, List.not_mem_nil, or_false] at hx
    rcases hx with rfl | rfl | rfl | rfl <;> rfl
  rw [State.repeatIf_eq (p := x.2.2 = true ∧ s.bc - 1 ≠ 0#16 ∧ s.a ≠ s.read s.hl) _
    (by simp [BitVec.sub_eq_iff_eq_add])] at hexec
  refine ⟨_, hexec, s.blockSearch_hl x.2.1, s.blockSearch_bc x.2.1, rfl, s.blockSearch_z x.2.1, rfl, rfl, rfl, rfl,
    ?_, (s.blockSearch_sameMem x.2.1 q).of_mem rfl⟩
  exact ((s.blockSearch_frame x.2.1).trans (State.withPc_frame _ _)).mono (by decide)

end Sys2Proof.Machine
end

section
/-! The byte arithmetic of the flags (R220 to R223), by exact sums and differences. -/

namespace Sys2Proof.Machine

/-- The result of `add8` is the exact sum modulo 256 (R220). -/
theorem add8_toNat (a b : Byte) (cin : Bool) : (add8 a b cin).toNat = (a.toNat + b.toNat + cin.toNat) % 256 :=
  BitVec.toNat_ofNat _ 8

/-- The result of `sub8` is the exact difference modulo 256 (R221). -/
theorem sub8_toNat (a b : Byte) (cin : Bool) :
    ((sub8 a b cin).toNat : Int) = ((a.toNat : Int) - b.toNat - cin.toNat) % 256 := by
  rw [sub8, BitVec.toNat_ofInt]
  omega

/-- Equal signs of the operands and another sign of the sum: the signed sum does not fit a byte (R220). -/
theorem add8Flags_pv_iff (a b : Byte) (cin : Bool) : (add8Flags a b cin).pv = true ↔
    a.toInt + b.toInt + (cin.toNat : Int) < -128 ∨ a.toInt + b.toInt + (cin.toNat : Int) > 127 := by
  have hsum := add8_toNat a b cin
  have hcin := cin.toNat_le
  simp only [add8Flags, Bool.and_eq_true, beq_iff_eq, bne_iff_ne, ne_eq, BitVec.msb_eq_decide, decide_eq_decide,
    BitVec.toInt_eq_toNat_cond]
  omega

/-- Different signs of the operands and a difference of another sign than the first: the signed difference does not fit a byte
(R221). -/
theorem sub8Flags_pv_iff (a b : Byte) (cin : Bool) : (sub8Flags a b cin).pv = true ↔
    a.toInt - b.toInt - (cin.toNat : Int) < -128 ∨ a.toInt - b.toInt - (cin.toNat : Int) > 127 := by
  have hdiff := sub8_toNat a b cin
  have hcin := cin.toNat_le
  simp only [sub8Flags, Bool.and_eq_true, bne_iff_ne, ne_eq, BitVec.msb_eq_decide, decide_eq_decide,
    BitVec.toInt_eq_toNat_cond]
  omega

/-- Settles O25: the results are exact arithmetic modulo 256, P/V is the range of the signed result, H and C are stated as
comparisons in the helpers themselves. -/
theorem addSubtractFlagsRule : Obligations.AddSubtractFlagsRule :=
  fun a b cin => ⟨add8_toNat a b cin, rfl, beq_iff_eq, decide_eq_true_iff, add8Flags_pv_iff a b cin, rfl,
    decide_eq_true_iff, sub8_toNat a b cin, rfl, beq_iff_eq, decide_eq_true_iff, sub8Flags_pv_iff a b cin, rfl,
    decide_eq_true_iff⟩

/-- Without a borrow the difference is 0 between equal bytes alone (R221). -/
theorem sub8_eq_zero_iff (a b : Byte) : sub8 a b false = 0#8 ↔ a = b := by
  have hdiff : ((sub8 a b false).toNat : Int) = ((a.toNat : Int) - b.toNat - 0) % 256 := sub8_toNat a b false
  rw [BitVec.toNat_eq, BitVec.toNat_eq]
  simp only [BitVec.toNat_ofNat]
  omega

/-- Z after an increment of FFH alone (R223). -/
theorem inc8Flags_z (old : Flags) (v : Byte) : (inc8Flags old v).z = (v == 0xFF#8) := by
  have hz : v + 1#8 = 0#8 ↔ v = 0xFF#8 := by bv_omega
  rw [inc8Flags, Bool.eq_iff_iff, beq_iff_eq, beq_iff_eq, hz]

/-- Z after a decrement of 01H alone (R223). -/
theorem dec8Flags_z (old : Flags) (v : Byte) : (dec8Flags old v).z = (v == 0x01#8) := by
  rw [dec8Flags, Bool.eq_iff_iff, beq_iff_eq, beq_iff_eq, BitVec.sub_eq_iff_eq_add, BitVec.zero_add]

/-- The exclusive or of some bits tells whether the number of those set is odd. -/
theorem toNat_foldl_xor {α : Type} (p : α → Bool) (l : List α) (b : Bool) :
    (l.foldl (fun acc k => acc ^^ p k) b).toNat = (b.toNat + (l.filter p).length) % 2 := by
  induction l generalizing b with
  | nil => cases b <;> rfl
  | cons k l ih =>
    have hbit : (b ^^ p k).toNat = (b.toNat + (p k).toNat) % 2 := by cases b <;> cases p k <;> rfl
    have hlen : ((k :: l).filter p).length = (p k).toNat + (l.filter p).length := by
      cases hk : p k <;> simp [hk, Nat.add_comm]
    rw [List.foldl_cons, ih]
    omega

/-- P/V as parity is even parity: the number of 1 bits is even (R34, R222). -/
theorem parity_iff (v : Byte) : parity v = true ↔ ((List.range 8).filter (fun k => v.getLsbD k)).length % 2 = 0 := by
  have hfold := toNat_foldl_xor v.getLsbD (List.range 8) false
  have hparity : parity v = !((List.range 8).foldl (fun acc k => acc ^^ v.getLsbD k) false) := by
    simp [parity, List.range_succ]
  rw [hparity, Bool.not_eq_true', ← Bool.toNat_eq_zero, hfold]
  simp

end Sys2Proof.Machine
end

section
/-! The 8-bit arithmetic and logic on A (R225 to R264): the five operand forms once for all operations. -/

namespace Sys2Proof.Machine

/-- A write of flags changes F alone, and no byte of memory (R37). -/
theorem State.setFlags_keeps (s : State) (g : Flags) : Frame s (s.setFlags g) allFlags ∧ SameMem s (s.setFlags g) := by
  refine ⟨fun x hx => ?_, .of_mem (.refl s) rfl⟩
  -- A piece of state is a bit of F, which `hx` excludes, or one that the update does not write.
  cases x <;> simp [allFlags] at hx <;> rfl

/-- What a write of flags leaves in F, bits 5 and 3 apart, is what was written (R37). -/
theorem FlagsAre.withFreeX (g : Flags) (free : Byte) : FlagsAre (g.withFreeX free) g := ⟨rfl, rfl, rfl, rfl, rfl, rfl⟩

/-- Flags and A written after an operand was read: A and F alone change (R220 to R222). -/
theorem State.setFlags_setReg_a_keeps {s u : State} (h : Frame s u [] ∧ SameMem s u) (g : Flags) (v : Byte) :
    Frame s ((u.setFlags g).setReg .a v) (.a :: allFlags) ∧ SameMem s ((u.setFlags g).setReg .a v) := by
  obtain ⟨hframe, hmem⟩ := frame_sameMem_trans h (u.setFlags_keeps g)
  obtain ⟨-, hframeA, hmemA⟩ := (u.setFlags g).setReg_loads .a v
  exact ⟨(hframe.trans hframeA).mono (by decide), hmem.trans hmemA⟩

section
variable (s : State) (r : Reg8) (n d : Byte) (onReg : Reg8 → Instr) (onByte : Byte → Instr) (onHl : Instr)
  (onIx onIy : Byte → Instr)

/-- The five forms of an 8-bit operation on A, each with its operand (R225 to R229). -/
def State.aluForms : List (Instr × Byte) :=
  [(onReg r, s.reg r), (onByte n, n), (onHl, s.read s.hl), (onIx d, s.read (s.ixd d)), (onIy d, s.read (s.iyd d))]

variable {s onReg onByte onHl onIx onIy}

/-- When each form is one operation on its operand, after the read cycle of a memory operand, then every form is that operation
in a state that differs from `s` neither in the CPU nor in memory. -/
theorem State.aluForms_exec (q : Quiet s) {x : Instr × Byte} (hx : x ∈ s.aluForms r n d onReg onByte onHl onIx onIy)
    (op : State → Byte → State) (hreg : exec (onReg r) s = .next (op s (s.reg r)))
    (hbyte : exec (onByte n) s = .next (op s n)) (hhl : exec onHl s = .next (op (s.afterRead s.hl) (s.read s.hl)))
    (hix : exec (onIx d) s = .next (op (s.afterRead (s.ixd d)) (s.read (s.ixd d))))
    (hiy : exec (onIy d) s = .next (op (s.afterRead (s.iyd d)) (s.read (s.iyd d)))) :
    ∃ u, (Frame s u [] ∧ SameMem s u) ∧ exec x.1 s = .next (op u x.2) := by
  have stay : Frame s s [] ∧ SameMem s s := ⟨fun _ _ => rfl, .refl s⟩
  have cycle (a : Word) : Frame s (s.afterRead a) [] ∧ SameMem s (s.afterRead a) := by
    obtain ⟨-, -, hmem⟩ := s.afterRead_quiet a q
    exact ⟨s.afterRead_frame a, hmem⟩
  simp only [State.aluForms, List.mem_cons, List.not_mem_nil, or_false] at hx
  rcases hx with rfl | rfl | rfl | rfl | rfl
  · exact ⟨s, stay, hreg⟩
  · exact ⟨s, stay, hbyte⟩
  · exact ⟨_, cycle _, hhl⟩
  · exact ⟨_, cycle _, hix⟩
  · exact ⟨_, cycle _, hiy⟩

end

section
variable {s u : State}

/-- What the operations on A find in A after their operand was read. -/
theorem Frame.a_eq (h : Frame s u []) : u.a = s.a := BitVec.eq_of_toNat_eq (h .a List.not_mem_nil)

/-- An addition after its operand was read (R220). -/
theorem State.addToA_spec (h : Frame s u [] ∧ SameMem s u) (v : Byte) (cin : Bool) :
    (u.addToA v cin).a = add8 s.a v cin ∧ FlagsAre (u.addToA v cin).f (add8Flags s.a v cin) ∧
    Frame s (u.addToA v cin) (.a :: allFlags) ∧ SameMem s (u.addToA v cin) := by
  rw [← h.left.a_eq]
  exact ⟨rfl, .withFreeX _ _, State.setFlags_setReg_a_keeps h _ _⟩

/-- A subtraction after its operand was read (R221). -/
theorem State.subFromA_spec (h : Frame s u [] ∧ SameMem s u) (v : Byte) (cin : Bool) :
    (u.subFromA v cin).a = sub8 s.a v cin ∧ FlagsAre (u.subFromA v cin).f (sub8Flags s.a v cin) ∧
    Frame s (u.subFromA v cin) (.a :: allFlags) ∧ SameMem s (u.subFromA v cin) := by
  rw [← h.left.a_eq]
  exact ⟨rfl, .withFreeX _ _, State.setFlags_setReg_a_keeps h _ _⟩

/-- A comparison after its operand was read: Z says equal, C says below (R260). -/
theorem State.compareA_spec (h : Frame s u [] ∧ SameMem s u) (v : Byte) :
    FlagsAre (u.compareA v).f (sub8Flags s.a v false) ∧ ((u.compareA v).f.z = true ↔ s.a = v) ∧
    ((u.compareA v).f.c = true ↔ s.a.toNat < v.toNat) ∧ Frame s (u.compareA v) allFlags ∧ SameMem s (u.compareA v) := by
  rw [← h.left.a_eq]
  exact ⟨.withFreeX _ _, beq_iff_eq.trans (sub8_eq_zero_iff u.a v), decide_eq_true_iff,
    frame_sameMem_trans h (u.setFlags_keeps _)⟩

/-- A logical operation after its operand was read, `res` being A and the operand combined bit by bit (R222). -/
theorem State.logic_spec (h : Frame s u [] ∧ SameMem s u) {bit : Bool → Bool → Bool} {res v : Byte}
    (hbits : ∀ k, res.getLsbD k = bit (u.a.getLsbD k) (v.getLsbD k)) (half : Bool) :
    let t := (u.setFlags (logic8Flags res half)).setReg .a res
    (∀ k : Nat, k < 8 → t.a.getLsbD k = bit (s.a.getLsbD k) (v.getLsbD k)) ∧
      t.f.s = t.a.msb ∧ t.f.z = (t.a == 0#8) ∧ t.f.h = half ∧ t.f.n = false ∧ t.f.c = false ∧
      (t.f.pv = true ↔ ((List.range 8).filter (fun k => t.a.getLsbD k)).length % 2 = 0) ∧
      Frame s t (.a :: allFlags) ∧ SameMem s t := by
  rw [← h.left.a_eq]
  exact ⟨fun k _ => hbits k, rfl, rfl, rfl, rfl, rfl, parity_iff res, State.setFlags_setReg_a_keeps h _ _⟩

end

/-- Settles O26: every form is an addition to A after its operand was read. -/
theorem addToAccumulator : Obligations.AddToAccumulator := by
  intro r n d s q
  constructor
  all_goals intro x hx
  · obtain ⟨u, hu, hexec⟩ := State.aluForms_exec r n d q hx (fun u v => u.addToA v false) rfl rfl rfl rfl rfl
    exact ⟨_, hexec, State.addToA_spec hu _ _⟩
  · obtain ⟨u, hu, hexec⟩ := State.aluForms_exec r n d q hx (fun u v => u.addToA v s.f.c) rfl rfl rfl rfl rfl
    exact ⟨_, hexec, State.addToA_spec hu _ _⟩

/-- Settles O27: every form is a subtraction from A, or a comparison with A, after its operand was read. -/
theorem subtractAndCompare : Obligations.SubtractAndCompare := by
  intro r n d s q
  refine ⟨?_, ?_, ?_⟩
  all_goals intro x hx
  · obtain ⟨u, hu, hexec⟩ := State.aluForms_exec r n d q hx (fun u v => u.subFromA v false) rfl rfl rfl rfl rfl
    exact ⟨_, hexec, State.subFromA_spec hu _ _⟩
  · obtain ⟨u, hu, hexec⟩ := State.aluForms_exec r n d q hx (fun u v => u.subFromA v s.f.c) rfl rfl rfl rfl rfl
    exact ⟨_, hexec, State.subFromA_spec hu _ _⟩
  · obtain ⟨u, hu, hexec⟩ := State.aluForms_exec r n d q hx State.compareA rfl rfl rfl rfl rfl
    exact ⟨_, hexec, State.compareA_spec hu _⟩

/-- Settles O28: the list is three groups of five forms, each the logical operation of its group after its operand was read. -/
theorem logicAccumulator : Obligations.LogicAccumulator := by
  intro r n d s q x hx
  have hgroups : x ∈
      (s.aluForms r n d .andR .andN .andAtHl .andAtIx .andAtIy).map (fun y => (y.1, y.2, and, true)) ++
      (s.aluForms r n d .xorR .xorN .xorAtHl .xorAtIx .xorAtIy).map (fun y => (y.1, y.2, xor, false)) ++
      (s.aluForms r n d .orR .orN .orAtHl .orAtIx .orAtIy).map (fun y => (y.1, y.2, or, false)) := hx
  simp only [List.mem_append, List.mem_map] at hgroups
  rcases hgroups with (⟨y, hy, rfl⟩ | ⟨y, hy, rfl⟩) | ⟨y, hy, rfl⟩
  · obtain ⟨u, hu, hexec⟩ := State.aluForms_exec r n d q hy State.andA rfl rfl rfl rfl rfl
    exact ⟨_, hexec, State.logic_spec hu (fun _ => BitVec.getLsbD_and) true⟩
  · obtain ⟨u, hu, hexec⟩ := State.aluForms_exec r n d q hy State.xorA rfl rfl rfl rfl rfl
    exact ⟨_, hexec, State.logic_spec hu (fun _ => BitVec.getLsbD_xor) false⟩
  · obtain ⟨u, hu, hexec⟩ := State.aluForms_exec r n d q hy State.orA rfl rfl rfl rfl rfl
    exact ⟨_, hexec, State.logic_spec hu (fun _ => BitVec.getLsbD_or) false⟩

end Sys2Proof.Machine
end

section
/-! INC and DEC of a byte (R265 to R272). -/

namespace Sys2Proof.Machine

/-- A register and then flags written, C kept: what the register holds, and what stays (R265). -/
theorem State.setReg_setFlags (s : State) (r : Reg8) (v : Byte) {g : Flags} (hc : g.c = s.f.c) :
    ((s.setReg r v).setFlags g).reg r = v ∧ Frame s ((s.setReg r v).setFlags g) (regLoc r :: flagsButC) ∧
    SameMem s ((s.setReg r v).setFlags g) := by
  obtain ⟨hreg, hframe, hmem⟩ := s.setReg_loads r v
  have hf : (s.setReg r v).f = s.f := by cases r <;> rfl
  have hkept : ((s.setReg r v).setFlags g).reg r = (s.setReg r v).reg r := by cases r <;> rfl
  exact ⟨hkept.trans hreg, hframe.trans (State.setFlags_frame_of_c (by rw [hf, hc])), hmem.of_mem rfl⟩

/-- A read-modify-write and then flags, C kept: the byte stored, and what stays of the CPU (R266). -/
theorem State.modifyFlags_keepsC (s : State) (a : Word) (res : Byte → Byte) {flags : Byte → Flags} (q : Quiet s)
    (hc : (flags (s.read a)).c = s.f.c) :
    Stored s (s.modifyFlags a res flags) a (res (s.read a)) ∧ Frame s (s.modifyFlags a res flags) flagsButC := by
  obtain ⟨-, -, hstored⟩ := s.modify_quiet a res q
  have hcycles := (s.afterRead_frame a).trans (State.write_frame _ a (res (s.read a)))
  exact ⟨hstored.of_mem rfl, hcycles.trans (State.setFlags_frame_of_c hc)⟩

/-- Settles O29: each form is one write of its operand with the flags of `inc8` or `dec8`. -/
theorem incDecByte : Obligations.IncDecByte := by
  intro r d s
  obtain ⟨hinc, hincKeeps⟩ := s.setReg_setFlags r (s.reg r + 1#8) (g := inc8Flags s.f (s.reg r)) rfl
  obtain ⟨hdec, hdecKeeps⟩ := s.setReg_setFlags r (s.reg r - 1#8) (g := dec8Flags s.f (s.reg r)) rfl
  refine ⟨⟨_, rfl, hinc, rfl, inc8Flags_z s.f _, rfl, rfl, rfl, hincKeeps⟩,
    ⟨_, rfl, hdec, rfl, dec8Flags_z s.f _, rfl, rfl, rfl, hdecKeeps⟩, fun q => ⟨fun x hx => ?_, fun x hx => ?_⟩⟩
  · obtain ⟨hstored, hframe⟩ := s.modifyFlags_keepsC x.2 (· + 1#8) (flags := inc8Flags s.f) q rfl
    have hexec : exec x.1 s = .next (s.modifyFlags x.2 (· + 1#8) (inc8Flags s.f)) := by
      simp only [List.mem_cons, List.not_mem_nil, or_false] at hx
      rcases hx with rfl | rfl | rfl <;> rfl
    exact ⟨_, hexec, hstored, rfl, inc8Flags_z s.f _, rfl, rfl, rfl, hframe⟩
  · obtain ⟨hstored, hframe⟩ := s.modifyFlags_keepsC x.2 (· - 1#8) (flags := dec8Flags s.f) q rfl
    have hexec : exec x.1 s = .next (s.modifyFlags x.2 (· - 1#8) (dec8Flags s.f)) := by
      simp only [List.mem_cons, List.not_mem_nil, or_false] at hx
      rcases hx with rfl | rfl | rfl <;> rfl
    exact ⟨_, hexec, hstored, rfl, dec8Flags_z s.f _, rfl, rfl, rfl, hframe⟩

end Sys2Proof.Machine
end

section
/-! The word arithmetic of the flags (R280 to R282), by exact sums and differences. -/

namespace Sys2Proof.Machine

/-- The result of `add16` and `adc16` is the exact sum modulo 65536 (R280, R281). -/
theorem add16_toNat (a b : Word) (cin : Bool) : (add16 a b cin).toNat = (a.toNat + b.toNat + cin.toNat) % 65536 :=
  BitVec.toNat_ofNat _ 16

/-- The result of `sbc16` is the exact difference modulo 65536 (R282). -/
theorem sbc16_toNat (a b : Word) (cin : Bool) :
    ((sbc16 a b cin).toNat : Int) = ((a.toNat : Int) - b.toNat - cin.toNat) % 65536 := by
  rw [sbc16, BitVec.toNat_ofInt]
  omega

/-- Equal signs of the operands and another sign of the sum: the signed sum does not fit a word (R281). -/
theorem adc16Flags_pv_iff (a b : Word) (cin : Bool) : (adc16Flags a b cin).pv = true ↔
    a.toInt + b.toInt + (cin.toNat : Int) < -32768 ∨ a.toInt + b.toInt + (cin.toNat : Int) > 32767 := by
  have hsum := add16_toNat a b cin
  have hcin := cin.toNat_le
  simp only [adc16Flags, Bool.and_eq_true, beq_iff_eq, bne_iff_ne, ne_eq, BitVec.msb_eq_decide, decide_eq_decide,
    BitVec.toInt_eq_toNat_cond]
  omega

/-- Different signs of the operands and a difference of another sign than the first: the signed difference does not fit a word
(R282). -/
theorem sbc16Flags_pv_iff (a b : Word) (cin : Bool) : (sbc16Flags a b cin).pv = true ↔
    a.toInt - b.toInt - (cin.toNat : Int) < -32768 ∨ a.toInt - b.toInt - (cin.toNat : Int) > 32767 := by
  have hdiff := sbc16_toNat a b cin
  have hcin := cin.toNat_le
  simp only [sbc16Flags, Bool.and_eq_true, bne_iff_ne, ne_eq, BitVec.msb_eq_decide, decide_eq_decide,
    BitVec.toInt_eq_toNat_cond]
  omega

end Sys2Proof.Machine
end

section
/-! The 16-bit arithmetic group (R283 to R293): a write of a register, in the additions and subtractions with its flags. -/

namespace Sys2Proof.Machine

/-- HL and then flags written: what HL holds (R283 to R285). -/
theorem State.hl_setHl_setFlags (s : State) (v : Word) (g : Flags) : ((s.setHl v).setFlags g).hl = v :=
  s.pair_setPair .hl v

/-- HL and then flags written: HL and F alone change, and no byte of memory (R284, R285). -/
theorem State.setHl_setFlags_keeps (s : State) (v : Word) (g : Flags) :
    Frame s ((s.setHl v).setFlags g) ([.h, .l] ++ allFlags) ∧ SameMem s ((s.setHl v).setFlags g) :=
  frame_sameMem_trans (s.setPair_keeps .hl v) ((s.setHl v).setFlags_keeps g)

/-- A write of flags that keeps S, Z and P/V changes no piece of state but the other bits of F (R280). -/
theorem State.setFlags_frame_of_szpv {s : State} {g : Flags} (hs : g.s = s.f.s) (hz : g.z = s.f.z) (hpv : g.pv = s.f.pv) :
    Frame s (s.setFlags g) partialFlags := by
  intro x hx
  cases x
  case flagS => exact congrArg Bool.toNat hs
  case flagZ => exact congrArg Bool.toNat hz
  case flagPV => exact congrArg Bool.toNat hpv
  all_goals simp [partialFlags] at hx <;> rfl

/-- The flags of `add16` after its result was written, to whichever register: S, Z and P/V stay, and memory (R280). -/
theorem State.setFlags_add16Flags_keeps {s u : State} {c : List Loc} (h : Frame s u c ∧ SameMem s u) (hf : u.f = s.f)
    (a b : Word) : Frame s (u.setFlags (add16Flags s.f a b)) (c ++ partialFlags) ∧
      SameMem s (u.setFlags (add16Flags s.f a b)) := by
  rw [← hf]
  exact frame_sameMem_trans h ⟨State.setFlags_frame_of_szpv rfl rfl rfl, .of_mem (.refl u) rfl⟩

/-- Settles O30: each form is one write of its register and then the flags of `add16`. -/
theorem addWord : Obligations.AddWord := by
  intro ss pp s
  have hhl := s.setPair_keeps .hl (add16 s.hl (s.pair ss) false)
  have hix := s.withIx_keeps (add16 s.ix (s.ixPair pp) false)
  have hiy := s.withIy_keeps (add16 s.iy (s.iyPair pp) false)
  refine ⟨⟨_, rfl, ?_, rfl, rfl, rfl, State.setFlags_add16Flags_keeps hhl rfl _ _⟩,
    ⟨_, rfl, add16_toNat _ _ false, rfl, rfl, rfl, State.setFlags_add16Flags_keeps hix rfl _ _⟩,
    ⟨_, rfl, add16_toNat _ _ false, rfl, rfl, rfl, State.setFlags_add16Flags_keeps hiy rfl _ _⟩⟩
  rw [State.hl_setHl_setFlags]
  exact add16_toNat _ _ false

/-- Settles O31: both forms are one write of HL and F; the result is exact arithmetic modulo 65536, S and Z are read off it, P/V is
the range of the signed result. -/
theorem addSubtractWordCarry : Obligations.AddSubtractWordCarry := by
  intro ss s
  refine ⟨⟨_, rfl, ?_, ?_, ?_, rfl, adc16Flags_pv_iff _ _ _, rfl, rfl, s.setHl_setFlags_keeps _ _⟩,
    ⟨_, rfl, ?_, ?_, ?_, rfl, sbc16Flags_pv_iff _ _ _, rfl, rfl, s.setHl_setFlags_keeps _ _⟩⟩
  all_goals rw [State.hl_setHl_setFlags]
  · exact add16_toNat _ _ _
  · rfl
  · rfl
  · exact sbc16_toNat _ _ _
  · rfl
  · rfl

/-- Settles O32: each form is one write of its register, which writes no flag. -/
theorem incDecWord : Obligations.IncDecWord := by
  intro ss s
  exact ⟨⟨_, rfl, s.pair_setPair ss _, s.setPair_keeps ss _⟩, ⟨_, rfl, s.pair_setPair ss _, s.setPair_keeps ss _⟩,
    ⟨_, rfl, rfl, s.withIx_keeps _⟩, ⟨_, rfl, rfl, s.withIy_keeps _⟩,
    ⟨_, rfl, rfl, s.withIx_keeps _⟩, ⟨_, rfl, rfl, s.withIy_keeps _⟩⟩

end Sys2Proof.Machine
end

section
/-! CPU control (R305 to R311): each instruction writes its own flip-flops and nothing else. -/

namespace Sys2Proof.Machine

theorem State.withHalted_frame (s : State) (b : Bool) : Frame s { s with halted := b } [.halted] := by
  intro x hx
  cases x <;> simp at hx <;> rfl

theorem State.withIffs_frame (s : State) (b b' : Bool) : Frame s { s with iff1 := b, iff2 := b' } [.iff1, .iff2] := by
  intro x hx
  cases x <;> simp at hx <;> rfl

theorem State.withEiShadow_frame (s : State) (b : Bool) : Frame s { s with eiShadow := b } [.eiShadow] := by
  intro x hx
  cases x <;> simp at hx <;> rfl

theorem State.withIm_frame (s : State) (m : IntMode) : Frame s { s with im := m } [.im] := by
  intro x hx
  cases x <;> simp at hx <;> rfl

/-- Settles O36: NOP is no write, each of the others one write of its flip-flops, of `halted` or of the mode. -/
theorem cpuControl : Obligations.CpuControl := by
  intro s
  refine ⟨rfl, ⟨_, rfl, rfl, s.withHalted_frame true, .refl s⟩, ⟨_, rfl, rfl, rfl, s.withIffs_frame false false, .refl s⟩,
    ⟨_, rfl, rfl, rfl, rfl, (s.withIffs_frame true true).trans (State.withEiShadow_frame _ true), .refl s⟩, ?_⟩
  intro x hx
  simp only [List.mem_cons, List.not_mem_nil, or_false] at hx
  rcases hx with rfl | rfl | rfl <;> exact ⟨_, rfl, rfl, s.withIm_frame _, .refl s⟩

end Sys2Proof.Machine
end

section
/-! The operations on A and F without an operand but DAA (R301 to R304). -/

namespace Sys2Proof.Machine

theorem State.stays (s : State) : Frame s s [] ∧ SameMem s s := ⟨fun _ _ => rfl, .refl s⟩

/-- CPL writes, of F, only H and N and the open bits (R301). -/
theorem State.setFlags_cplFlags_frame (s : State) :
    Frame s (s.setFlags (cplFlags s.f)) ([.flagH, .flagN] ++ xBits) := by
  intro x hx
  cases x <;> simp [xBits] at hx <;> rfl

/-- The negation of a byte is its distance to 256 (R302). -/
theorem sub8_zero_left_toNat (a : Byte) : (sub8 0#8 a false).toNat = (256 - a.toNat) % 256 := by
  have hdiff : ((sub8 0#8 a false).toNat : Int) = (0 - (a.toNat : Int) - 0) % 256 := sub8_toNat 0#8 a false
  omega

/-- A negation borrows but for 0 (R302). -/
theorem sub8Flags_zero_left_c (a : Byte) : (sub8Flags 0#8 a false).c = true ↔ a ≠ 0#8 := by
  have hborrow : (sub8Flags 0#8 a false).c = true ↔ 0 < a.toNat := decide_eq_true_iff
  rw [hborrow, Nat.pos_iff_ne_zero, ne_eq, ne_eq, BitVec.toNat_eq]
  rfl

/-- A negation overflows at -128 alone (R302). -/
theorem sub8Flags_zero_left_pv (a : Byte) : (sub8Flags 0#8 a false).pv = true ↔ a = 0x80#8 := by
  have hrange : (sub8Flags 0#8 a false).pv = true ↔ (0 : Int) - a.toInt - 0 < -128 ∨ (0 : Int) - a.toInt - 0 > 127 :=
    sub8Flags_pv_iff 0#8 a false
  rw [hrange, BitVec.toInt_eq_toNat_cond, BitVec.toNat_eq, BitVec.toNat_ofNat]
  omega

/-- Settles O35: each instruction is one write of flags, CPL and NEG then one of A. -/
theorem accumulatorFlagOps : Obligations.AccumulatorFlagOps := by
  intro s
  have hcpl := s.setFlags_cplFlags_frame.trans (State.setReg_frame _ .a (~~~s.a))
  have hbits : ∀ k : Nat, k < 8 → (~~~s.a).getLsbD k = !s.a.getLsbD k := fun k hk => by simp [hk]
  exact ⟨⟨_, rfl, hbits, rfl, rfl, hcpl.mono (by decide), .refl s⟩,
    ⟨_, rfl, sub8_zero_left_toNat s.a, .withFreeX _ _, sub8Flags_zero_left_c s.a, sub8Flags_zero_left_pv s.a,
      State.setFlags_setReg_a_keeps s.stays _ _⟩,
    ⟨_, rfl, rfl, rfl, rfl, State.setFlags_frame_of_szpv rfl rfl rfl, .refl s⟩,
    ⟨_, rfl, rfl, rfl, rfl, State.setFlags_frame_of_szpv rfl rfl rfl, .refl s⟩⟩

end Sys2Proof.Machine
end

section
/-! DAA (R300): its result by exact arithmetic, and on what an addition or a subtraction of two BCD bytes leaves. -/

namespace Sys2Proof.Machine

/-- The two parts of the correction share no bit, so that joining them is adding them (R300). -/
theorem daaCorrection_toNat (f : Flags) (a : Byte) : (daaCorrection f a).toNat =
    (if f.h || decide (a.toNat % 16 > 9) then 6 else 0) + (if f.c || decide (a.toNat > 153) then 96 else 0) := by
  unfold daaCorrection
  cases f.h || decide (a.toNat % 16 > 9) <;> cases f.c || decide (a.toNat > 153) <;> rfl

/-- DAA takes the correction away from A after a subtraction, else adds it, modulo 256 (R300). -/
theorem daaResult_toNat (f : Flags) (a : Byte) : (daaResult f a).toNat =
    (if f.n then a.toNat + 256 - (daaCorrection f a).toNat else a.toNat + (daaCorrection f a).toNat) % 256 := by
  unfold daaResult
  split
  · rw [BitVec.toNat_sub]
    omega
  · exact BitVec.toNat_add _ _

/-- Settles O33: DAA is one write of F and of A, the correction a sum of its two parts. -/
theorem decimalAdjust : Obligations.DecimalAdjust := by
  intro s
  have hres := daaResult_toNat s.f s.a
  rw [daaCorrection_toNat] at hres
  exact ⟨_, rfl, hres, rfl, rfl, rfl, rfl, rfl, rfl, State.setFlags_setReg_a_keeps s.stays _ _⟩

/-- The two decimal digits of a number stand in the two halves of its BCD byte (R300). -/
theorem bcdByte_toNat (x : Nat) : (bcdByte x).toNat = 16 * (x % 100 / 10) + x % 10 := by
  rw [bcdByte, BitVec.toNat_ofNat]
  omega

theorem bcdByte_toNat_le (x : Nat) : (bcdByte x).toNat ≤ 153 := by
  rw [bcdByte_toNat]
  omega

/-- After an addition of BCD bytes DAA corrects the low digit exactly when the decimal digits carry (R300). -/
theorem daa_low_of_add (x y : Nat) : ((add8Flags (bcdByte x) (bcdByte y) false).h ||
    decide ((add8 (bcdByte x) (bcdByte y) false).toNat % 16 > 9)) = decide (x % 10 + y % 10 ≥ 10) := by
  simp only [add8Flags, add8_toNat, bcdByte_toNat, Bool.toNat_false, ← Bool.decide_or, decide_eq_decide]
  omega

/-- After a subtraction of BCD bytes DAA corrects the low digit exactly when the decimal digits borrow (R300). -/
theorem daa_low_of_sub (x y : Nat) : ((sub8Flags (bcdByte x) (bcdByte y) false).h ||
    decide ((sub8 (bcdByte x) (bcdByte y) false).toNat % 16 > 9)) = decide (x % 10 < y % 10) := by
  have hdiff := sub8_toNat (bcdByte x) (bcdByte y) false
  simp only [sub8Flags, bcdByte_toNat, Bool.toNat_false, ← Bool.decide_or, decide_eq_decide] at hdiff ⊢
  omega

section
variable {x y : Nat} (hx : x < 100) (hy : y < 100)
include hx hy

/-- BCD bytes are ordered as their numbers are. -/
theorem bcdByte_lt_iff : (bcdByte x).toNat < (bcdByte y).toNat ↔ x < y := by
  rw [bcdByte_toNat, bcdByte_toNat]
  omega

/-- The binary sum of two BCD bytes passes 99H exactly when the decimal sum passes 99. -/
theorem bcdByte_add_gt_iff : (bcdByte x).toNat + (bcdByte y).toNat > 153 ↔ x + y ≥ 100 := by
  rw [bcdByte_toNat, bcdByte_toNat]
  omega

/-- After an addition of BCD bytes DAA corrects the high digit, and sets C, exactly when the decimal sum carries (R300). -/
theorem daa_high_of_add : ((add8Flags (bcdByte x) (bcdByte y) false).c ||
    decide ((add8 (bcdByte x) (bcdByte y) false).toNat > 153)) = decide (x + y ≥ 100) := by
  have hexact := bcdByte_add_gt_iff hx hy
  have hxle := bcdByte_toNat_le x
  have hyle := bcdByte_toNat_le y
  simp only [add8Flags, add8_toNat, Bool.toNat_false, ← Bool.decide_or, decide_eq_decide]
  omega

/-- After a subtraction of BCD bytes DAA corrects the high digit, and sets C, exactly when the decimal difference borrows
(R300). -/
theorem daa_high_of_sub : ((sub8Flags (bcdByte x) (bcdByte y) false).c ||
    decide ((sub8 (bcdByte x) (bcdByte y) false).toNat > 153)) = decide (x < y) := by
  have hdiff := sub8_toNat (bcdByte x) (bcdByte y) false
  have horder := bcdByte_lt_iff hx hy
  have hxle := bcdByte_toNat_le x
  simp only [sub8Flags, Bool.toNat_false, ← Bool.decide_or, decide_eq_decide] at hdiff ⊢
  omega

/-- Each digit of the sum that carries in decimal is 6 short of carrying in binary (R300). -/
theorem daaResult_add_bcd : daaResult (add8Flags (bcdByte x) (bcdByte y) false) (add8 (bcdByte x) (bcdByte y) false) =
    bcdByte (x + y) := by
  have hn : (add8Flags (bcdByte x) (bcdByte y) false).n = false := rfl
  rw [BitVec.toNat_eq, daaResult_toNat, daaCorrection_toNat, daa_low_of_add, daa_high_of_add hx hy, hn, add8_toNat,
    bcdByte_toNat, bcdByte_toNat, bcdByte_toNat]
  simp only [Bool.false_eq_true, if_false, decide_eq_true_eq, Bool.toNat_false]
  split <;> split <;> omega

/-- Each digit of the difference that borrows has taken 16 in binary, where 10 is wanted (R300). -/
theorem daaResult_sub_bcd : daaResult (sub8Flags (bcdByte x) (bcdByte y) false) (sub8 (bcdByte x) (bcdByte y) false) =
    bcdByte (x + 100 - y) := by
  have hn : (sub8Flags (bcdByte x) (bcdByte y) false).n = true := rfl
  have hdiff := sub8_toNat (bcdByte x) (bcdByte y) false
  rw [bcdByte_toNat, bcdByte_toNat, Bool.toNat_false] at hdiff
  rw [BitVec.toNat_eq, daaResult_toNat, daaCorrection_toNat, daa_low_of_sub, daa_high_of_sub hx hy, hn,
    bcdByte_toNat]
  simp only [if_true, decide_eq_true_eq]
  split <;> split <;> omega

end

/-- Settles O34: every form is an addition to A, or a subtraction from A, after its operand was read, which keeps A. -/
theorem decimalAdjustIsBcd : Obligations.DecimalAdjustIsBcd := by
  intro x y r n d s hx hy ha
  constructor
  all_goals intro p hp hv
  · obtain ⟨t, hexec, hta⟩ : ∃ t : State, exec p.1 s = .next (t.addToA p.2 false) ∧ t.a = s.a := by
      simp only [List.mem_cons, List.not_mem_nil, or_false] at hp
      rcases hp with rfl | rfl | rfl | rfl | rfl <;> exact ⟨_, rfl, rfl⟩
    have hres := daaResult_add_bcd hx hy
    have hcarry := daa_high_of_add hx hy
    rw [← ha, ← hta, ← hv] at hres hcarry
    exact ⟨_, _, hexec, rfl, hres, hcarry⟩
  · obtain ⟨t, hexec, hta⟩ : ∃ t : State, exec p.1 s = .next (t.subFromA p.2 false) ∧ t.a = s.a := by
      simp only [List.mem_cons, List.not_mem_nil, or_false] at hp
      rcases hp with rfl | rfl | rfl | rfl | rfl <;> exact ⟨_, rfl, rfl⟩
    have hres := daaResult_sub_bcd hx hy
    have hborrow := daa_high_of_sub hx hy
    rw [← ha, ← hta, ← hv] at hres hborrow
    exact ⟨_, _, hexec, rfl, hres, hborrow⟩

end Sys2Proof.Machine
end

section
/-! The rotates and shifts as numbers (R320): what moves in at the one end, what leaves at the other. -/

namespace Sys2Proof.Machine

/-- Bits 6 to 0 moved up, a bit coming in below: the double modulo 256 and the bit (R320). -/
theorem shiftUp_toNat (v : Byte) (b : BitVec 1) :
    (v.extractLsb' 0 7 ++ b).toNat = (2 * v.toNat) % 256 + b.toNat := by
  rw [BitVec.toNat_append, ← Nat.shiftLeft_add_eq_or_of_lt b.isLt, Nat.shiftLeft_eq, BitVec.extractLsb'_toNat,
    Nat.shiftRight_zero]
  omega

/-- Bits 7 to 1 moved down, a bit coming in above: the half and 128 times the bit (R320). -/
theorem shiftDown_toNat (v : Byte) (b : BitVec 1) :
    (b ++ v.extractLsb' 1 7).toNat = v.toNat / 2 + 128 * b.toNat := by
  have hhalf : (v.extractLsb' 1 7).toNat = v.toNat / 2 := by
    rw [BitVec.extractLsb'_toNat, Nat.shiftRight_eq_div_pow]
    omega
  rw [BitVec.toNat_append, ← Nat.shiftLeft_add_eq_or_of_lt (v.extractLsb' 1 7).isLt, Nat.shiftLeft_eq, hhalf]
  omega

/-- Bit 7 of a byte, cut out, as a number. -/
theorem extractLsb'_seven_toNat (v : Byte) : (v.extractLsb' 7 1).toNat = v.toNat / 128 := by
  rw [BitVec.extractLsb'_toNat, Nat.shiftRight_eq_div_pow]
  omega

/-- Bit 0 of a byte, cut out, as a number. -/
theorem extractLsb'_zero_toNat (v : Byte) : (v.extractLsb' 0 1).toNat = v.toNat % 2 := by
  rw [BitVec.extractLsb'_toNat, Nat.shiftRight_zero]

/-- The bit that a rotate or shift to the left moves out is bit 7, set from 128 on (R320). -/
theorem getLsbD_seven (v : Byte) : v.getLsbD 7 = decide (128 ≤ v.toNat) :=
  v.msb_eq_getLsbD_last.symm.trans v.msb_eq_decide

/-- The bit that a rotate or shift to the right moves out is bit 0, set in the odd numbers (R320). -/
theorem getLsbD_zero_eq_odd (v : Byte) : v.getLsbD 0 = decide (v.toNat % 2 = 1) := by
  rw [BitVec.getLsbD, Nat.testBit_zero]

/-- Settles O37: each result is one of the two moves with the bit that its column names. -/
theorem rotateResultRule : Obligations.RotateResultRule := by
  intro v c
  refine ⟨?_, ?_, ?_, ?_, shiftUp_toNat v 0#1, ?_, shiftDown_toNat v 0#1, ?_, ?_⟩
  · rw [rotResult, shiftUp_toNat, extractLsb'_seven_toNat]
  · rw [rotResult, shiftDown_toNat, extractLsb'_zero_toNat]
  · rw [rotResult, shiftUp_toNat, BitVec.toNat_ofBool]
  · rw [rotResult, shiftDown_toNat, BitVec.toNat_ofBool]
  · rw [rotResult, shiftDown_toNat, extractLsb'_seven_toNat]
  all_goals
    intro k hk
    simp only [List.mem_cons, List.not_mem_nil, or_false] at hk
  · rcases hk with rfl | rfl | rfl <;> exact getLsbD_seven v
  · rcases hk with rfl | rfl | rfl | rfl <;> exact getLsbD_zero_eq_odd v

end Sys2Proof.Machine
end

section
/-! The rotates of A (R321 to R324), and the rotates and shifts of a register and of a byte in memory (R325 to R352). -/

namespace Sys2Proof.Machine

/-- A rotate of A writes A and, of F, H, N and C with the open bits (R321). -/
theorem State.rotateA_keeps (s : State) (k : RotKind) :
    Frame s (s.rotateA k) (.a :: partialFlags) ∧ SameMem s (s.rotateA k) := by
  have hflags : Frame s (s.setFlags (rotAFlags s.f (rotCarry k s.a))) partialFlags :=
    State.setFlags_frame_of_szpv rfl rfl rfl
  exact ⟨(hflags.trans (State.setReg_frame _ .a (rotResult k s.f.c s.a))).mono (by decide), .refl s⟩

/-- Settles O38: each of the four is the rotate of A of its kind. -/
theorem rotateAccumulator : Obligations.RotateAccumulator := by
  intro s x hx
  have hexec : exec x.1 s = .next (s.rotateA x.2) := by
    simp only [List.mem_cons, List.not_mem_nil, or_false] at hx
    rcases hx with rfl | rfl | rfl | rfl <;> rfl
  exact ⟨_, hexec, rfl, rfl, rfl, rfl, s.rotateA_keeps x.2⟩

/-- A write of flags leaves every register operand (R104, R37). -/
theorem State.reg_setFlags (s : State) (r : Reg8) (g : Flags) : (s.setFlags g).reg r = s.reg r := by
  cases r <;> rfl

/-- A rotate or shift of a register: its result, the flags of R320 on it, and what stays. -/
theorem State.rotateReg_spec (s : State) (k : RotKind) (r : Reg8) :
    (s.rotateReg k r).reg r = rotResult k s.f.c (s.reg r) ∧
    FlagsAre (s.rotateReg k r).f (rotFlags (rotResult k s.f.c (s.reg r)) (rotCarry k (s.reg r))) ∧
    Frame s (s.rotateReg k r) (regLoc r :: allFlags) ∧ SameMem s (s.rotateReg k r) := by
  obtain ⟨hreg, hkeeps⟩ := s.setReg_loads r (rotResult k s.f.c (s.reg r))
  exact ⟨(State.reg_setFlags _ r _).trans hreg, .withFreeX _ _, frame_sameMem_trans hkeeps (State.setFlags_keeps _ _)⟩

/-- A rotate or shift of a byte in memory: the byte stored, the flags of R320 on it, and what stays of the CPU. -/
theorem State.rotateAt_spec (s : State) (k : RotKind) (a : Word) (q : Quiet s) :
    Stored s (s.rotateAt k a) a (rotResult k s.f.c (s.read a)) ∧
    FlagsAre (s.rotateAt k a).f (rotFlags (rotResult k s.f.c (s.read a)) (rotCarry k (s.read a))) ∧
    Frame s (s.rotateAt k a) allFlags := by
  obtain ⟨-, -, hstored⟩ := s.modify_quiet a (rotResult k s.f.c) q
  obtain ⟨hflags, -⟩ := (s.modify a (rotResult k s.f.c)).setFlags_keeps
    (rotFlags (rotResult k s.f.c (s.read a)) (rotCarry k (s.read a)))
  have hcycles := (s.afterRead_frame a).trans (State.write_frame _ a (rotResult k s.f.c (s.read a)))
  exact ⟨hstored.of_mem rfl, .withFreeX _ _, hcycles.trans hflags⟩

/-- Settles O39: each form is the rotate or shift of its kind, of the register or of the byte at the operand's address. -/
theorem rotateShift : Obligations.RotateShift := by
  intro r d s
  refine ⟨fun x hx => ?_, fun q x hx => ?_⟩
  · have hexec : exec x.1 s = .next (s.rotateReg x.2 r) := by
      simp only [List.mem_cons, List.not_mem_nil, or_false] at hx
      rcases hx with rfl | rfl | rfl | rfl | rfl | rfl | rfl <;> rfl
    obtain ⟨hreg, ⟨hs, hz, hh, hpv, hn, hc⟩, hkeeps⟩ := s.rotateReg_spec x.2 r
    refine ⟨_, hexec, hreg, hc, ?_⟩
    rw [hreg]
    exact ⟨hs, hz, hpv, hh, hn, hkeeps⟩
  · have hexec : exec x.1 s = .next (s.rotateAt x.2.1 x.2.2) := by
      simp only [List.mem_cons, List.not_mem_nil, or_false] at hx
      -- Three operand forms of each of the seven operations.
      rcases hx with
        rfl | rfl | rfl | rfl | rfl | rfl | rfl | rfl | rfl | rfl | rfl |
        rfl | rfl | rfl | rfl | rfl | rfl | rfl | rfl | rfl | rfl <;> rfl
    exact ⟨_, hexec, s.rotateAt_spec x.2.1 x.2.2 q⟩

end Sys2Proof.Machine
end

section
/-! The digit rotations between A and the byte at HL (R353, R354): each of the two bytes written is two digits put together. -/

namespace Sys2Proof.Machine

/-- A byte put together from two digits, as a number. -/
theorem byteOfDigits_toNat (high low : BitVec 4) : (high ++ low).toNat = 16 * high.toNat + low.toNat := by
  rw [BitVec.toNat_append, ← Nat.shiftLeft_add_eq_or_of_lt low.isLt, Nat.shiftLeft_eq, Nat.mul_comm]

/-- The low digit of a byte, cut out, as a number. -/
theorem lowDigit_toNat (v : Byte) : (v.extractLsb' 0 4).toNat = v.toNat % 16 := by
  rw [BitVec.extractLsb'_toNat, Nat.shiftRight_zero]

/-- The high digit of a byte, cut out, as a number. -/
theorem highDigit_toNat (v : Byte) : (v.extractLsb' 4 4).toNat = v.toNat / 16 := by
  rw [BitVec.extractLsb'_toNat, Nat.shiftRight_eq_div_pow]
  omega

/-- A digit rotation, its two bytes known as numbers: `m` is stored at HL and `k` left in A, the flags are those of A with C kept,
and nothing else of the CPU changes. -/
theorem State.digits_spec (s : State) {toMem toA : Byte → Byte → Byte} {m k : Nat} (q : Quiet s)
    (hm : (toMem s.a (s.read s.hl)).toNat = m) (hk : (toA s.a (s.read s.hl)).toNat = k) :
    let t := s.digits toMem toA
    Stored s t s.hl (BitVec.ofNat 8 m) ∧ t.a.toNat = k ∧
      t.f.s = t.a.msb ∧ t.f.z = (t.a == 0#8) ∧ t.f.h = false ∧ t.f.pv = parity t.a ∧ t.f.n = false ∧
      Frame s t (.a :: flagsButC) := by
  obtain ⟨hstored, hframe⟩ :=
    s.modifyFlags_keepsC s.hl (toMem s.a) (flags := fun v => byteFlags s.f (toA s.a v)) q rfl
  have hframeA := hframe.trans (State.setReg_frame _ .a (toA s.a (s.read s.hl)))
  rw [← hm, BitVec.ofNat_toNat, BitVec.setWidth_eq]
  exact ⟨hstored.of_mem rfl, hk, rfl, rfl, rfl, rfl, rfl, hframeA.mono (by decide)⟩

/-- Settles O40: each form is a digit rotation, whose two bytes are read off digit by digit. -/
theorem rotateDigits : Obligations.RotateDigits := by
  intro s q
  refine ⟨⟨_, rfl, s.digits_spec q ?_ ?_⟩, ⟨_, rfl, s.digits_spec q ?_ ?_⟩⟩
  · rw [byteOfDigits_toNat, lowDigit_toNat, lowDigit_toNat]
  · rw [byteOfDigits_toNat, highDigit_toNat, highDigit_toNat]
  · rw [byteOfDigits_toNat, lowDigit_toNat, highDigit_toNat]
  · rw [byteOfDigits_toNat, highDigit_toNat, lowDigit_toNat]

end Sys2Proof.Machine
end

section
/-! BIT, SET and RES (R360 to R371), on the bits of their operand. -/

namespace Sys2Proof.Machine

/-- Of the bits of a byte `1 << b` sets bit `b` alone, and none when `b` is 8 or more. -/
theorem getLsbD_one_shiftLeft (b : Nat) {k : Nat} (hk : k < 8) : (1#8 <<< b).getLsbD k = decide (k = b) := by
  rw [BitVec.getLsbD_shiftLeft, BitVec.getLsbD_one, Bool.eq_iff_iff]
  simp only [Bool.and_eq_true, Bool.not_eq_true', decide_eq_true_eq, decide_eq_false_iff_not]
  omega

theorem getLsbD_setBit (b : Nat) (v : Byte) (k : Nat) (hk : k < 8) :
    (setBit b v).getLsbD k = (decide (k = b) || v.getLsbD k) := by
  rw [setBit, BitVec.getLsbD_or, getLsbD_one_shiftLeft b hk, Bool.or_comm]

theorem getLsbD_resBit (b : Nat) (v : Byte) (k : Nat) (hk : k < 8) :
    (resBit b v).getLsbD k = (!decide (k = b) && v.getLsbD k) := by
  rw [resBit, BitVec.getLsbD_and, BitVec.getLsbD_not, getLsbD_one_shiftLeft b hk, decide_eq_true hk, Bool.true_and,
    Bool.and_comm]

/-- A read cycle, nobody else on the bus, changes nothing of the CPU and no byte of memory (R72). -/
theorem State.afterRead_keeps (s : State) (a : Word) (q : Quiet s) :
    Frame s (s.afterRead a) [] ∧ SameMem s (s.afterRead a) := by
  obtain ⟨-, -, hmem⟩ := s.afterRead_quiet a q
  exact ⟨s.afterRead_frame a, hmem⟩

/-- A bit test changes F alone, C in it kept, and no byte of memory (R360). -/
theorem State.testBit_keeps (s : State) (b : Nat) (v : Byte) :
    Frame s (s.testBit b v) flagsButC ∧ SameMem s (s.testBit b v) := by
  refine ⟨fun x hx => ?_, .of_mem (.refl s) rfl⟩
  cases x
  case flagC => rfl
  all_goals simp [flagsButC] at hx <;> rfl

/-- Settles O41: every form is a bit test after its operand was read. -/
theorem testBit : Obligations.TestBit := by
  intro b r d s q x hx
  obtain ⟨u, hu, hexec⟩ : ∃ u, (Frame s u [] ∧ SameMem s u) ∧ exec x.1 s = .next (u.testBit b x.2) := by
    simp only [List.mem_cons, List.not_mem_nil, or_false] at hx
    rcases hx with rfl | rfl | rfl | rfl
    · exact ⟨s, s.stays, rfl⟩
    all_goals exact ⟨_, s.afterRead_keeps _ q, rfl⟩
  exact ⟨_, hexec, rfl, rfl, rfl, frame_sameMem_trans hu (u.testBit_keeps b x.2)⟩

/-- A read-modify-write without flags: the byte stored, and nothing of the CPU changes (R365). -/
theorem State.modify_spec (s : State) (a : Word) (res : Byte → Byte) (q : Quiet s) :
    Stored s (s.modify a res) a (res (s.read a)) ∧ Frame s (s.modify a res) [] := by
  obtain ⟨-, -, hstored⟩ := s.modify_quiet a res q
  exact ⟨hstored, (s.afterRead_frame a).trans (State.write_frame _ _ _)⟩

/-- Settles O42: each form writes its operand with one bit set or reset, the register or the byte in memory. -/
theorem setResetBit : Obligations.SetResetBit := by
  intro b r d s
  obtain ⟨hset, hsetKeeps⟩ := s.setReg_loads r (setBit b (s.reg r))
  obtain ⟨hres, hresKeeps⟩ := s.setReg_loads r (resBit b (s.reg r))
  refine ⟨⟨_, rfl, ?_, hsetKeeps⟩, ⟨_, rfl, ?_, hresKeeps⟩, fun q => ⟨fun x hx => ?_, fun x hx => ?_⟩⟩
  · rw [hset]
    exact getLsbD_setBit b _
  · rw [hres]
    exact getLsbD_resBit b _
  · have hexec : exec x.1 s = .next (s.modify x.2 (setBit b)) := by
      simp only [List.mem_cons, List.not_mem_nil, or_false] at hx
      rcases hx with rfl | rfl | rfl <;> rfl
    obtain ⟨hstored, hframe⟩ := s.modify_spec x.2 (setBit b) q
    exact ⟨_, _, hexec, hstored, getLsbD_setBit b _, hframe⟩
  · have hexec : exec x.1 s = .next (s.modify x.2 (resBit b)) := by
      simp only [List.mem_cons, List.not_mem_nil, or_false] at hx
      rcases hx with rfl | rfl | rfl <;> rfl
    obtain ⟨hstored, hframe⟩ := s.modify_spec x.2 (resBit b) q
    exact ⟨_, _, hexec, hstored, getLsbD_resBit b _, hframe⟩

end Sys2Proof.Machine
end

section
/-! Input and output (R380 to R391): one port access each, and one iteration of the block forms. -/

namespace Sys2Proof.Machine

theorem State.afterInput_frame (s : State) (port : Word) : Frame s (s.afterInput port) [] := s.withPlat_frame _

theorem State.output_frame (s : State) (port : Word) (v : Byte) : Frame s (s.output port v) [] := s.withPlat_frame _

/-- An input cycle and a write of a register: one port read, and of the CPU the register alone changes (R76, R104). -/
theorem State.setReg_afterInput_spec (s : State) (port : Word) (r : Reg8) (v : Byte) (q : Quiet s) :
    ((s.afterInput port).setReg r v).plat.busLog = s.plat.busLog ++ [.ioRead port (s.input port)] ∧
    Frame s ((s.afterInput port).setReg r v) [regLoc r] ∧ SameMem s ((s.afterInput port).setReg r v) := by
  obtain ⟨-, -, hmem, hlog⟩ := s.afterInput_quiet port q
  obtain ⟨-, hkeeps⟩ := (s.afterInput port).setReg_loads r v
  rw [State.setReg_plat]
  exact ⟨hlog, frame_sameMem_trans ⟨s.afterInput_frame port, hmem⟩ hkeeps⟩

/-- An output cycle: one port write, nothing of the CPU and no byte of memory changes (R76). -/
theorem State.output_spec (s : State) (port : Word) (v : Byte) (q : Quiet s) :
    (s.output port v).plat.busLog = s.plat.busLog ++ [.ioWrite port v] ∧
    Frame s (s.output port v) [] ∧ SameMem s (s.output port v) := by
  obtain ⟨-, -, hmem, hlog⟩ := s.output_quiet port v q
  exact ⟨hlog, s.output_frame port v, hmem⟩

/-- Settles O43: each form is one port cycle; an input then writes its register, `IN r,(C)` the flags too. -/
theorem inputOutputPort : Obligations.InputOutputPort := by
  intro n r s q
  obtain ⟨hlog, -, hmem⟩ := s.setReg_afterInput_spec s.bc r (s.input s.bc) q
  obtain ⟨hreg, hframe, -⟩ :=
    (s.afterInput s.bc).setReg_setFlags r (s.input s.bc) (g := byteFlags s.f (s.input s.bc)) rfl
  exact ⟨⟨_, rfl, rfl, s.setReg_afterInput_spec _ .a _ q⟩,
    ⟨_, rfl, hreg, hlog, rfl, rfl, rfl, rfl, rfl, (s.afterInput_frame _).trans hframe, hmem.of_mem rfl⟩,
    ⟨_, rfl, s.output_spec _ _ q⟩, ⟨_, rfl, s.output_spec _ _ q⟩⟩

/-- A write of F in which some bits are free changes F alone (R37). -/
theorem State.setFlagsFree_frame (s : State) (k : Byte → Flags) : Frame s (s.setFlagsFree k) allFlags := by
  intro x hx
  cases x <;> simp [allFlags] at hx <;> rfl

/-- The register part of one iteration of a block input or output: B counted down, HL moved, F written (R382, R388). -/
theorem State.blockIoRegs_frame (s : State) (b : Byte) (hl : Word) (k : Byte → Flags) :
    Frame s (({ s with b := b }.setHl hl).setFlagsFree k) ([.b, .h, .l] ++ allFlags) :=
  ((s.setReg_frame .b b).trans (State.setPair_frame _ .hl hl)).trans (State.setFlagsFree_frame _ k)

section
variable (s : State) (delta : Word)

theorem State.blockIn_hl : (s.blockIn delta).hl = s.hl + delta := wordOf_hiByte_loByte _

/-- The byte answered by the port is stored at HL (R382). -/
theorem State.blockIn_stored (q : Quiet s) : Stored s (s.blockIn delta) s.hl (s.input s.bc) := by
  obtain ⟨hq, hmap, hmem, -⟩ := s.afterInput_quiet s.bc q
  have hstored : Stored s ((s.afterInput s.bc).write s.hl (s.input s.bc)) s.hl (s.input s.bc) :=
    .of_same hmap hmem (State.write_stored _ _ _ hq)
  exact hstored.of_mem rfl

/-- The bus events of a block input: the port read, then the write at HL where RAM does not answer (R382, R85). -/
theorem State.blockIn_busLog (q : Quiet s) : (s.blockIn delta).plat.busLog =
    s.plat.busLog ++ .ioRead s.bc (s.input s.bc) ::
      (if s.plat.kindAt s.hl = .ram then [] else [.memWrite s.hl (s.input s.bc)]) := by
  obtain ⟨hq, hmap, -, hlog⟩ := s.afterInput_quiet s.bc q
  have hwrite := (s.afterInput s.bc).write_busLog s.hl (s.input s.bc) hq
  rw [hlog, Platform.kindAt_congr _ _ _ hmap, List.append_assoc] at hwrite
  exact hwrite

theorem State.blockIn_frame : Frame s (s.blockIn delta) ([.b, .h, .l] ++ allFlags) :=
  ((s.afterInput_frame _).trans (State.write_frame _ _ _)).trans (State.blockIoRegs_frame _ _ _ _)

theorem State.blockOut_hl : (s.blockOut delta).hl = s.hl + delta := wordOf_hiByte_loByte _

/-- A block output reads memory and makes one port write after that (R388). -/
theorem State.blockOut_cycles (q : Quiet s) :
    (s.blockOut delta).plat.busLog =
      (s.afterRead s.hl).plat.busLog ++ [.ioWrite (wordOf (s.b - 1) s.c) (s.read s.hl)] ∧
    SameMem s (s.blockOut delta) := by
  obtain ⟨hq, -, hmem⟩ := s.afterRead_quiet s.hl q
  obtain ⟨hlog, -, hout⟩ := (s.afterRead s.hl).output_spec (wordOf (s.b - 1) s.c) (s.read s.hl) hq
  exact ⟨hlog, (hmem.trans hout).of_mem rfl⟩

theorem State.blockOut_frame : Frame s (s.blockOut delta) ([.b, .h, .l] ++ allFlags) :=
  ((s.afterRead_frame _).trans (State.output_frame _ _ _)).trans (State.blockIoRegs_frame _ _ _ _)

end

/-- Settles O44: each form is one iteration and then, in the repeating ones, a write of PC. -/
theorem blockInput : Obligations.BlockInput := by
  intro s q x hx
  have hexec : exec x.1 s = .next ((s.blockIn x.2.1).repeatIf (x.2.2 && s.b - 1 != 0#8)) := by
    simp only [List.mem_cons, List.not_mem_nil, or_false] at hx
    rcases hx with rfl | rfl | rfl | rfl <;> rfl
  rw [State.repeatIf_eq (p := x.2.2 = true ∧ s.b - 1 ≠ 0#8) _ (by simp)] at hexec
  refine ⟨_, hexec, (s.blockIn_stored x.2.1 q).of_mem rfl, s.blockIn_busLog x.2.1 q, rfl, s.blockIn_hl x.2.1, rfl, rfl, ?_⟩
  exact ((s.blockIn_frame x.2.1).trans (State.withPc_frame _ _)).mono (by decide)

/-- Settles O45: each form is one iteration and then, in the repeating ones, a write of PC. -/
theorem blockOutput : Obligations.BlockOutput := by
  intro s q x hx
  have hexec : exec x.1 s = .next ((s.blockOut x.2.1).repeatIf (x.2.2 && s.b - 1 != 0#8)) := by
    simp only [List.mem_cons, List.not_mem_nil, or_false] at hx
    rcases hx with rfl | rfl | rfl | rfl <;> rfl
  rw [State.repeatIf_eq (p := x.2.2 = true ∧ s.b - 1 ≠ 0#8) _ (by simp)] at hexec
  obtain ⟨hlog, hmem⟩ := s.blockOut_cycles x.2.1 q
  refine ⟨_, hexec, hlog, rfl, s.blockOut_hl x.2.1, rfl, rfl, ?_, hmem.of_mem rfl⟩
  exact ((s.blockOut_frame x.2.1).trans (State.withPc_frame _ _)).mono (by decide)

end Sys2Proof.Machine
end

section
/-! Jumps, calls and returns (R400 to R417). -/

namespace Sys2Proof.Machine

/-- A jump taken on a condition writes PC or nothing (R401). -/
theorem State.jumpIf_spec (s : State) (taken : Bool) (target : Word) :
    let t := if taken then s.jump target else s
    t.pc = (if taken = true then target else s.pc) ∧ Frame s t [.pc] ∧ SameMem s t := by
  cases taken with
  | false => exact ⟨rfl, fun _ _ => rfl, .refl s⟩
  | true => exact ⟨rfl, s.withPc_frame target, .refl s⟩

/-- Settles O46: the jumps are one write of PC, on a condition or not; DJNZ is such a jump after B was counted down. -/
theorem jumps : Obligations.Jumps := by
  intro cc nn e s
  refine ⟨fun x hx => ?_, fun x hx => ?_, ?_⟩
  · have hexec : exec x.1 s = .next (s.jump x.2) := by
      simp only [List.mem_cons, List.not_mem_nil, or_false] at hx
      rcases hx with rfl | rfl | rfl | rfl | rfl <;> rfl
    exact ⟨_, hexec, rfl, s.withPc_frame x.2, .refl s⟩
  · have hexec : exec x.1 s = .next (if x.2.2 then s.jump x.2.1 else s) := by
      simp only [List.mem_cons, List.not_mem_nil, or_false] at hx
      rcases hx with rfl | rfl | rfl | rfl | rfl | rfl | rfl | rfl | rfl | rfl | rfl | rfl | rfl <;> rfl
    exact ⟨_, hexec, s.jumpIf_spec x.2.2 x.2.1⟩
  · obtain ⟨hpc, hframe, hmem⟩ := State.jumpIf_spec { s with b := s.b - 1 } (s.b - 1 != 0#8) (s.relative e)
    have hcount : (s.b - 1 != 0#8) = true ↔ s.b ≠ 1#8 := by simp [BitVec.sub_eq_iff_eq_add]
    refine ⟨_, rfl, ?_, hpc.trans (ite_congr (propext hcount) (fun _ => rfl) (fun _ => rfl)), (s.setReg_frame .b _).trans hframe, hmem⟩
    exact BitVec.eq_of_toNat_eq (hframe .b (by decide))

/-- A byte with a zero high byte is its zero extension (R417). -/
theorem wordOf_zero_left (v : Byte) : wordOf 0#8 v = BitVec.zeroExtend 16 v := by
  rw [BitVec.toNat_eq, wordOf_toNat, BitVec.toNat_setWidth]
  simp only [BitVec.toNat_ofNat]
  omega

/-- A call pushes PC and jumps: PC, SP and the two stack bytes change (R411). -/
theorem State.callTo_spec (s : State) (target : Word) (q : Quiet s) :
    (s.callTo target).pc = target ∧ (s.callTo target).sp = s.sp - 2 ∧
    Stored16 s (s.callTo target) (s.sp - 2) s.pc ∧ Frame s (s.callTo target) [.pc, .sp] := by
  obtain ⟨-, -, hstored⟩ := s.callTo_quiet target q
  exact ⟨rfl, s.push16_sp s.pc, hstored, ((s.push16_frame s.pc).trans (State.withPc_frame _ target)).mono (by decide)⟩

/-- Settles O47: each call taken, a restart being one, is `callTo` its target. -/
theorem callsAndRestarts : Obligations.CallsAndRestarts := by
  intro cc nn p s q
  refine ⟨fun x hx => ?_, fun htaken => ?_, fun hnot => ?_⟩
  · have hexec : exec x.1 s = .next (s.callTo x.2) := by
      simp only [List.mem_cons, List.not_mem_nil, or_false] at hx
      rcases hx with rfl | rfl
      · rfl
      · rw [← wordOf_zero_left]
        rfl
    exact ⟨_, hexec, s.callTo_spec x.2 q⟩
  · exact ⟨_, congrArg Host.Outcome.next (if_pos htaken), s.callTo_spec nn q⟩
  · exact congrArg Host.Outcome.next (if_neg (Bool.eq_false_iff.mp hnot))

/-- A return pops PC: PC and SP change and no byte of memory (R413). -/
theorem State.returnPop_spec (s : State) (q : Quiet s) :
    s.returnPop.pc = s.pop16 ∧ s.returnPop.sp = s.sp + 2 ∧ Frame s s.returnPop [.pc, .sp] ∧ SameMem s s.returnPop := by
  obtain ⟨hframe, hmem⟩ := s.afterPop16_keeps q
  exact ⟨rfl, s.afterPop16_sp, (hframe.trans (State.withPc_frame _ s.pop16)).mono (by decide), hmem⟩

/-- A return leaves both interrupt flip-flops (R413, R415). -/
theorem State.returnPop_iffs (s : State) : s.returnPop.iff1 = s.iff1 ∧ s.returnPop.iff2 = s.iff2 := by
  rw [State.returnPop_eq]
  exact ⟨rfl, rfl⟩

theorem State.withIff1_frame (s : State) (b : Bool) : Frame s { s with iff1 := b } [.iff1] := by
  intro x hx
  cases x <;> simp at hx <;> rfl

/-- Settles O48: each return taken is `returnPop`, RETN with a write of IFF1 after it. -/
theorem returns : Obligations.Returns := by
  intro cc s q
  obtain ⟨hpc, hsp, hframe, hmem⟩ := s.returnPop_spec q
  obtain ⟨hiff1, hiff2⟩ := s.returnPop_iffs
  refine ⟨fun x hx => ?_, fun htaken => ?_, fun hnot => ?_⟩
  · simp only [List.mem_cons, List.not_mem_nil, or_false] at hx
    rcases hx with rfl | rfl | rfl
    · exact ⟨s.returnPop, rfl, hpc, hsp, hiff1, hiff2, hframe, hmem⟩
    · exact ⟨s.returnPop, rfl, hpc, hsp, hiff1, hiff2, hframe, hmem⟩
    · exact ⟨s.returnNmi, rfl, hpc, hsp, rfl, hiff2, hframe.trans (State.withIff1_frame _ s.iff2), hmem⟩
  · exact ⟨_, congrArg Host.Outcome.next (if_pos htaken), hpc, hsp, hframe, hmem⟩
  · exact congrArg Host.Outcome.next (if_neg (Bool.eq_false_iff.mp hnot))

end Sys2Proof.Machine
end

section
/-! The branches of a step (R436), one equation each. -/

namespace Sys2Proof.Machine

theorem step_reset {s : State} (hreset : s.resetLow = true) : step s = .next s.applyReset := if_pos hreset

theorem step_nmi {s : State} (hreset : s.resetLow = false) (hnmi : s.nmiPending = true) :
    step s = .next (s.acceptNmi.tick nmiTStates) := by
  simp [step, hreset, hnmi]

/-- An acceptance of a maskable interrupt ends as its handler entry does (R447, R448). -/
theorem step_int_next {s t : State} (hreset : s.resetLow = false) (hnmi : s.nmiPending = false)
    (hint : s.intAccepted = true) (ht : s.acceptInt = .next t) : step s = .next (t.tick (intTStates s.im)) := by
  simp [step, hreset, hnmi, hint, ht]

theorem step_int_refused {s : State} {x : Refusal} (hreset : s.resetLow = false) (hnmi : s.nmiPending = false)
    (hint : s.intAccepted = true) (hx : s.acceptInt = .refused x) : step s = .refused x := by
  simp [step, hreset, hnmi, hint, hx]

theorem step_halted {s : State} (hreset : s.resetLow = false) (hnmi : s.nmiPending = false)
    (hint : s.intAccepted = false) (hhalted : s.halted = true) :
    step s = .next (s.haltCycle.finishInstr haltTStates) := by
  simp [step, hreset, hnmi, hint, hhalted]

/-- The step that runs an instruction fetched. -/
theorem step_instr {s s1 u : State} {i : Instr} (hrun : Running s) (hfetch : s.fetch = some (i, s1))
    (hexec : exec i s1 = .next u) : step s = .next (u.finishInstr (tStates i s1)) := by
  rw [step_running hrun, stepInstr, hfetch]
  simp only [hexec]

/-- The four conditions of R447. -/
theorem State.intAccepted_iff (s : State) : s.intAccepted = true ↔
    s.intLow = true ∧ s.iff1 = true ∧ s.eiShadow = false ∧ s.nmiPending = false := by
  simp [State.intAccepted, and_assoc]

/-- Settles O2: the step is the RESET, which writes the nine values and keeps memory. -/
theorem resetSignalStep : Obligations.ResetSignalStep :=
  fun s hreset => ⟨s.applyReset, step_reset hreset, rfl, rfl, rfl, rfl, rfl, rfl, rfl, rfl, rfl, .refl s⟩

/-- Settles O60: `Fault` has no constructor, and every instruction moves to a next state. -/
theorem nothingFaults : Obligations.NothingFaults := by
  refine ⟨fun _ x => (nomatch x), fun i s => ?_⟩
  obtain ⟨t, hexec, -⟩ := exec_movesTo i s
  exact ⟨t, hexec⟩

end Sys2Proof.Machine
end

section
/-! The acceptance of an NMI and the return from its handler (R445, R446). -/

namespace Sys2Proof.Machine

/-- The state in which an acceptance of an NMI makes its call: R counted, the ignored fetch done (R445). -/
def State.ackNmi (s : State) : State :=
  ({ s with nmiPending := false, halted := false, iff1 := false } : State).m1.afterRead s.pc

theorem State.acceptNmi_eq_callTo (s : State) : s.acceptNmi = s.ackNmi.callTo 0x0066#16 := rfl

theorem State.ackNmi_quiet (s : State) (q : Quiet s) :
    Quiet s.ackNmi ∧ s.ackNmi.plat.memMap = s.plat.memMap ∧ SameMem s s.ackNmi :=
  State.afterRead_quiet ({ s with nmiPending := false, halted := false, iff1 := false } : State).m1 s.pc q

theorem State.ackNmi_frame (s : State) : Frame s s.ackNmi [.r, .iff1, .halted, .nmiPending] := by
  intro x hx
  cases x <;> simp at hx <;> rfl

/-- The T states counted are no piece of the CPU's own state (log 16). -/
theorem State.tick_frame (s : State) (n : Nat) : Frame s (s.tick n) [] := by
  intro x _
  cases x <;> rfl

/-- Before its call an acceptance of an NMI leaves PC, SP and IFF2 (R445). -/
theorem State.ackNmi_keeps (s : State) : s.ackNmi.pc = s.pc ∧ s.ackNmi.sp = s.sp ∧ s.ackNmi.iff2 = s.iff2 := by
  simp [State.ackNmi]

/-- What an acceptance of an NMI does to the control state one by one (R445). -/
theorem State.acceptNmi_control (s : State) : s.acceptNmi.iff1 = false ∧ s.acceptNmi.iff2 = s.iff2 ∧
    s.acceptNmi.halted = false ∧ s.acceptNmi.nmiPending = false ∧ s.acceptNmi.r = refreshNext s.r := by
  rw [State.acceptNmi_eq]
  exact ⟨rfl, rfl, rfl, rfl, rfl⟩

/-- Settles O49: the acceptance is a call from the state after its fetch-like cycle. -/
theorem nmiAcceptance : Obligations.NmiAcceptance := by
  intro s hreset hnmi q
  obtain ⟨hq, hmap, hmem⟩ := s.ackNmi_quiet q
  obtain ⟨hpc, hsp, hstored, hframe⟩ := s.ackNmi.callTo_spec 0x0066#16 hq
  have hcall := (s.ackNmi_frame.trans hframe).trans (State.tick_frame _ nmiTStates)
  obtain ⟨hiff1, hiff2, hhalted, hlatch, hr⟩ := s.acceptNmi_control
  exact ⟨s.acceptNmi.tick nmiTStates, step_nmi hreset hnmi, hpc, hiff1, hiff2, hhalted, hlatch, hr, hsp,
    (Stored16.of_same hmap hmem hstored).of_mem rfl, hcall.mono (by decide)⟩

/-! A pop neither reads nor writes the count of T states (log 16), and so no return does. -/

theorem State.pop16_tick (s : State) (n : Nat) : (s.tick n).pop16 = s.pop16 := rfl

theorem State.afterPopByte_tick (s : State) (n : Nat) : (s.tick n).afterPopByte = s.afterPopByte.tick n := rfl

theorem State.afterPop16_tick (s : State) (n : Nat) : (s.tick n).afterPop16 = s.afterPop16.tick n := by
  rw [State.afterPop16, State.afterPopByte_tick, State.afterPopByte_tick, State.afterPop16]

theorem State.returnPop_tick (s : State) (n : Nat) : (s.tick n).returnPop = s.returnPop.tick n := by
  rw [State.returnPop, State.pop16_tick, State.afterPop16_tick]
  rfl

theorem State.returnNmi_tick (s : State) (n : Nat) : (s.tick n).returnNmi = s.returnNmi.tick n := by
  rw [State.returnNmi, State.returnPop_tick]
  rfl

/-- Over a RAM stack RETN undoes the call of the acceptance and copies IFF2 (R446). -/
theorem State.returnNmi_acceptNmi (s : State) (q : Quiet s) (hhigh : s.plat.kindAt (s.sp - 1) = .ram)
    (hlow : s.plat.kindAt (s.sp - 2) = .ram) :
    ∃ p, s.acceptNmi.returnNmi = { s.ackNmi.withPlat p with iff1 := s.iff2 } := by
  obtain ⟨hq, hmap, -⟩ := s.ackNmi_quiet q
  have ram {a : Word} (h : s.plat.kindAt a = .ram) : s.ackNmi.plat.kindAt a = .ram :=
    (Platform.kindAt_congr _ _ a hmap).trans h
  obtain ⟨p, hp⟩ := s.ackNmi.returnPop_callTo 0x0066#16 hq (ram hhigh) (ram hlow)
  obtain ⟨-, hiff2, -⟩ := s.acceptNmi_control
  refine ⟨p, ?_⟩
  rw [State.returnNmi, hiff2, State.acceptNmi_eq_callTo, hp]

theorem exec_retn_tick (s : State) (n : Nat) : exec .retn (s.tick n) = .next (s.returnNmi.tick n) := by
  rw [← State.returnNmi_tick]
  rfl

/-- Settles O55: RETN ends in the state the acceptance made its call from, with IFF1 set to IFF2. -/
theorem nmiReturnRestores : Obligations.NmiReturnRestores := by
  intro s hreset hnmi q hhigh hlow
  obtain ⟨p, hret⟩ := s.returnNmi_acceptNmi q hhigh hlow
  obtain ⟨hpc, hsp, hiff2⟩ := s.ackNmi_keeps
  have hexec := exec_retn_tick s.acceptNmi nmiTStates
  rw [hret] at hexec
  have hframe := (s.ackNmi_frame.trans (State.withPlat_frame _ p)).trans (State.withIff1_frame _ s.iff2)
  exact ⟨_, _, step_nmi hreset hnmi, hexec, hpc, hsp, rfl, hiff2,
    (hframe.trans (State.tick_frame _ nmiTStates)).mono (by decide)⟩

end Sys2Proof.Machine
end

section
/-! The acceptance of a maskable interrupt (R447 to R452). -/

namespace Sys2Proof.Machine

theorem State.acceptInt_eq (s : State) : s.acceptInt = s.beginInt.acknowledge.enterHandler s.ackData := by
  rw [State.acceptInt, State.ackByte_beginInt]

/-- The acknowledge cycle finds PC, SP, I, the mode and the table parameter as they were (R448). -/
theorem State.acknowledged_keeps (s : State) :
    s.beginInt.acknowledge.pc = s.pc ∧ s.beginInt.acknowledge.sp = s.sp ∧ s.beginInt.acknowledge.i = s.i ∧
    s.beginInt.acknowledge.im = s.im ∧ s.beginInt.acknowledge.im2Indirect = s.im2Indirect := by
  rw [State.acknowledged_eq]
  exact ⟨rfl, rfl, rfl, rfl, rfl⟩

/-- What an acceptance has changed when PC is pushed (R448). -/
theorem State.pushedForInt_eq (s : State) : s.pushedForInt =
    { s with sp := s.sp - 2, r := refreshNext s.r, iff1 := false, iff2 := false, halted := false,
             f := s.clearIffRead.f, plat := s.pushedForInt.plat } := by
  unfold State.pushedForInt
  rw [State.push16_eq, State.acknowledged_eq]

/-- The push of an acceptance stores PC on the stack (R448, R80). -/
theorem State.pushedForInt_quiet (s : State) (q : Quiet s) :
    Quiet s.pushedForInt ∧ s.pushedForInt.plat.memMap = s.plat.memMap ∧
    Stored16 s s.pushedForInt (s.sp - 2) s.pc := by
  obtain ⟨hq, hmap, hmem⟩ := s.acknowledged_quiet q
  obtain ⟨-, hsp, -⟩ := s.acknowledged_keeps
  obtain ⟨hq', hmap', hstored⟩ := s.beginInt.acknowledge.push16_quiet s.pc hq
  rw [hsp] at hstored
  exact ⟨hq', hmap'.trans hmap, .of_same hmap hmem hstored⟩

/-- With the stack in RAM the acknowledge cycle is the one bus event of the push too (R452). -/
theorem State.pushedForInt_busLog (s : State) (q : Quiet s) (hhigh : s.plat.kindAt (s.sp - 1) = .ram)
    (hlow : s.plat.kindAt (s.sp - 2) = .ram) :
    s.pushedForInt.plat.busLog = s.plat.busLog ++ [.intAck s.pc s.ackData] := by
  obtain ⟨hq, hmap, -⟩ := s.acknowledged_quiet q
  obtain ⟨-, hsp, -⟩ := s.acknowledged_keeps
  have ram {a : Word} (h : s.plat.kindAt a = .ram) : s.beginInt.acknowledge.plat.kindAt a = .ram :=
    (Platform.kindAt_congr _ _ a hmap).trans h
  rw [State.pushedForInt, State.push16_busLog _ _ hq, hsp, if_pos (ram hhigh), if_pos (ram hlow), List.append_nil,
    List.append_nil, State.acknowledged_busLog s q]

/-- Of F the free P/V of U9 is all that an acceptance writes (R459). -/
theorem State.clearIffRead_frame (s : State) : Frame s s.clearIffRead (if s.iffRead then [.flagPV] else []) := by
  unfold State.clearIffRead
  cases s.iffRead with
  | false => exact fun _ _ => rfl
  | true =>
    intro x hx
    cases x <;> simp at hx <;> rfl

/-- What an acceptance has changed of the CPU when PC is pushed (R448). -/
theorem State.pushedForInt_frame (s : State) : Frame s s.pushedForInt
    ([.sp, .r, .iff1, .iff2, .halted] ++ if s.iffRead then [.flagPV] else []) := by
  have hbegin : Frame s s.beginInt ((if s.iffRead then [.flagPV] else []) ++ ([.halted] ++ [.iff1, .iff2])) :=
    s.clearIffRead_frame.trans ((State.withHalted_frame _ false).trans (State.withIffs_frame _ false false))
  have hack : Frame s.beginInt s.beginInt.acknowledge ([.r] ++ []) :=
    (State.withR_frame _ (refreshNext s.beginInt.r)).trans (State.withPlat_frame _ _)
  refine ((hbegin.trans hack).trans (State.push16_frame _ s.pc)).mono ?_
  cases s.iffRead <;> decide

/-- A word stored stays stored through operations that keep memory. -/
theorem Stored16.trans_same {s t u : State} {a v : Word} (h : Stored16 s t a v) (h' : SameMem t u) : Stored16 s u a v := by
  obtain ⟨hlow, hhigh, hother⟩ := h
  exact ⟨(h' _).trans hlow, (h' _).trans hhigh, fun x hx hy => (h' x).trans (hother x hx hy)⟩

theorem State.withPlat_self (s : State) : s.withPlat s.plat = s := rfl

/-- What every entry of a handler has done (R448); machine cycles that keep memory may come between the push of PC and the
jump. -/
theorem State.handlerEntered_spec (s : State) (q : Quiet s) {u : State} (hu : u = s.pushedForInt.withPlat u.plat)
    (hmem : SameMem s.pushedForInt u) (target : Word) (n : Nat) :
    let t := (u.jump target).tick n
    t.iff1 = false ∧ t.iff2 = false ∧ t.halted = false ∧ t.r = refreshNext s.r ∧ t.sp = s.sp - 2 ∧
    Stored16 s t (s.sp - 2) s.pc ∧
    Frame s t ([.pc, .sp, .r, .iff1, .iff2, .halted] ++ if s.iffRead then [.flagPV] else []) := by
  obtain ⟨-, -, hstored⟩ := s.pushedForInt_quiet q
  obtain ⟨hiff1, hiff2, hhalted, hr, hsp⟩ : u.iff1 = false ∧ u.iff2 = false ∧ u.halted = false ∧
      u.r = refreshNext s.r ∧ u.sp = s.sp - 2 := by
    rw [hu, State.pushedForInt_eq]
    exact ⟨rfl, rfl, rfl, rfl, rfl⟩
  have hcycles : Frame s.pushedForInt u [] := by
    rw [hu]
    exact State.withPlat_frame _ _
  have hjump : Frame u ((u.jump target).tick n) ([.pc] ++ []) := (u.withPc_frame target).trans (State.tick_frame _ n)
  have hframe : Frame s ((u.jump target).tick n)
      ([.pc, .sp, .r, .iff1, .iff2, .halted] ++ if s.iffRead then [.flagPV] else []) := by
    refine ((s.pushedForInt_frame.trans hcycles).trans hjump).mono ?_
    cases s.iffRead <;> decide
  exact ⟨hiff1, hiff2, hhalted, hr, hsp, (hstored.trans_same hmem).of_mem rfl, hframe⟩

/-- A call right after the acknowledge cycle pushes PC and jumps (R449, R450). -/
theorem State.callTo_acknowledged (s : State) (target : Word) :
    s.beginInt.acknowledge.callTo target = s.pushedForInt.jump target := by
  obtain ⟨hpc, -⟩ := s.acknowledged_keeps
  rw [State.callTo, hpc, State.pushedForInt, State.jump]

/-- In mode 1, and in mode 0 with an RST byte, the acceptance is a call of the restart address (R449, R450). -/
theorem State.acceptInt_restart (s : State) {target : Word} (h : s.im = .im1 ∧ target = 0x0038#16 ∨
    s.im = .im0 ∧ s.ackData &&& 0xC7#8 = 0xC7#8 ∧ target = BitVec.zeroExtend 16 (s.ackData &&& 0x38#8)) :
    s.acceptInt = .next (s.pushedForInt.jump target) := by
  obtain ⟨-, -, -, him, -⟩ := s.acknowledged_keeps
  rw [State.acceptInt_eq, State.enterHandler, him, ← State.callTo_acknowledged]
  rcases h with ⟨hmode, rfl⟩ | ⟨hmode, hrst, rfl⟩
  · rw [hmode]
  · rw [hmode, ← wordOf_zero_left]
    exact if_pos hrst

/-- In mode 0 the acceptance is refused for a byte that is no RST (R449). -/
theorem State.acceptInt_notRst (s : State) (hmode : s.im = .im0) (hrst : s.ackData &&& 0xC7#8 ≠ 0xC7#8) :
    s.acceptInt = .refused .mode0NotRst := by
  obtain ⟨-, -, -, him, -⟩ := s.acknowledged_keeps
  rw [State.acceptInt_eq, State.enterHandler, him, hmode]
  exact if_neg hrst

/-- In mode 2 PC is read from the table after the push, or is the word itself (R451). -/
theorem State.acceptInt_mode2 (s : State) (hmode : s.im = .im2) : s.acceptInt = .next
    (if s.im2Indirect then
      (s.pushedForInt.afterRead16 (wordOf s.i s.ackData)).jump (s.pushedForInt.read16 (wordOf s.i s.ackData))
    else s.pushedForInt.jump (wordOf s.i s.ackData)) := by
  obtain ⟨hpc, -, hi, him, hindirect⟩ := s.acknowledged_keeps
  rw [State.acceptInt_eq, State.enterHandler, him, hmode]
  dsimp only
  rw [State.enterMode2, State.callTo_acknowledged, hpc, hi, hindirect]
  rfl

/-- Settles O50: the acceptance is the push of PC after the acknowledge cycle, then PC takes the restart address. -/
theorem intAcceptanceRestart : Obligations.IntAcceptanceRestart := by
  refine ⟨State.intAccepted_iff, fun s target hreset hlow hiff hei hnmi q hmode => ?_⟩
  have hint := s.intAccepted_iff.mpr ⟨hlow, hiff, hei, hnmi⟩
  obtain ⟨hiff1, hiff2, hhalted, hr, hsp, hstored, hframe⟩ :=
    s.handlerEntered_spec q (State.withPlat_self _).symm (.refl _) target (intTStates s.im)
  exact ⟨_, step_int_next hreset hnmi hint (s.acceptInt_restart hmode), rfl, hiff1, hiff2, hhalted, hr, hsp, hstored,
    s.pushedForInt_busLog q, hframe⟩

/-- Settles O51: the acceptance is refused at the handler entry. -/
theorem intModeZeroRefused : Obligations.IntModeZeroRefused :=
  fun s hreset hlow hiff hei hnmi hmode hrst =>
    step_int_refused hreset hnmi (s.intAccepted_iff.mpr ⟨hlow, hiff, hei, hnmi⟩) (s.acceptInt_notRst hmode hrst)

/-- A jump and the count of its T states keep memory. -/
theorem SameMem.jump_tick {s u : State} (h : SameMem s u) (target : Word) (n : Nat) : SameMem s ((u.jump target).tick n) :=
  h.of_mem rfl

/-- Settles O52: with `IM2_INDIRECT` two read cycles, which keep memory, come between the push and the write of PC. -/
theorem intAcceptanceVectored : Obligations.IntAcceptanceVectored := by
  rintro s vec hreset hlow hiff hei hnmi q hmode rfl
  have hint := s.intAccepted_iff.mpr ⟨hlow, hiff, hei, hnmi⟩
  have hstep := step_int_next hreset hnmi hint (s.acceptInt_mode2 hmode)
  obtain ⟨hq, hmap, -⟩ := s.pushedForInt_quiet q
  obtain ⟨-, -, hmem⟩ := s.pushedForInt.afterRead16_quiet (wordOf s.i s.ackData) hq
  have backed {a : Word} (h : s.plat.backed a = true) : s.pushedForInt.plat.backed a = true := by
    rw [Platform.backed_iff] at h ⊢
    rwa [Platform.kindAt_congr _ _ a hmap]
  cases hindirect : s.im2Indirect with
  | false =>
    rw [hindirect, if_neg Bool.false_ne_true] at hstep
    exact ⟨_, hstep, fun _ => rfl, nofun, nofun, s.handlerEntered_spec q (State.withPlat_self _).symm (.refl _) _ _⟩
  | true =>
    rw [hindirect, if_pos rfl] at hstep
    have hend := hmem.jump_tick (s.pushedForInt.read16 (wordOf s.i s.ackData)) (intTStates s.im)
    refine ⟨_, hstep, nofun, fun _ => rfl, fun _ hlow hhigh => ?_,
      s.handlerEntered_spec q (State.afterRead16_eq _ _) hmem _ _⟩
    have hword := s.pushedForInt.read16_backed _ hq (backed hlow) (backed hhigh)
    rw [← hend, ← hend] at hword
    exact hword

end Sys2Proof.Machine
end

section
/-! The end of an instruction (R437): the EI delay, and HALT. -/

namespace Sys2Proof.Machine

/-- What ends an instruction or a halted cycle leaves the flip-flops, HALT, PC and R as they were (R437). -/
theorem State.finishInstr_keeps (s : State) (n : Nat) :
    (s.finishInstr n).iff1 = s.iff1 ∧ (s.finishInstr n).iff2 = s.iff2 ∧ (s.finishInstr n).eiShadow = s.eiShadow ∧
    (s.finishInstr n).halted = s.halted ∧ (s.finishInstr n).pc = s.pc ∧ (s.finishInstr n).r = s.r := by
  rw [State.finishInstr, State.sampleInputs_keeps]
  exact ⟨rfl, rfl, rfl, rfl, rfl, rfl⟩

/-- Of the CPU's own state the sampling point writes the latched NMI alone, and it keeps memory (R437). -/
theorem State.finishInstr_frame (s : State) (n : Nat) :
    Frame s (s.finishInstr n) [.nmiPending] ∧ SameMem s (s.finishInstr n) := by
  rw [State.finishInstr, State.sampleInputs_keeps]
  refine ⟨fun x hx => ?_, .of_mem (.refl s) rfl⟩
  cases x <;> simp at hx <;> rfl

/-- Settles O53: EI sets `eiShadow` and DI clears IFF1, each a condition of R447; no other instruction sets `eiShadow`, which the
fetch has cleared. -/
theorem enableDelay : Obligations.EnableDelay := by
  intro s s1 hrun
  refine ⟨fun hfetch => ?_, fun hfetch => ?_, fun i hi hfetch => ?_⟩
  · have hstep := step_instr hrun hfetch (u := { s1 with iff1 := true, iff2 := true, eiShadow := true }) rfl
    obtain ⟨hiff1, hiff2, hei, -⟩ :=
      State.finishInstr_keeps { s1 with iff1 := true, iff2 := true, eiShadow := true } (tStates .ei s1)
    exact ⟨_, hstep, hiff1, hiff2, hei, by simp [State.intAccepted, hei]⟩
  · have hstep := step_instr hrun hfetch (u := { s1 with iff1 := false, iff2 := false }) rfl
    obtain ⟨hiff1, hiff2, -⟩ := State.finishInstr_keeps { s1 with iff1 := false, iff2 := false } (tStates .di s1)
    exact ⟨_, hstep, hiff1, hiff2, by simp [State.intAccepted, hiff1]⟩
  · obtain ⟨u, hexec, -⟩ := exec_movesTo i s1
    obtain ⟨-, -, -, -, -, -, hei, -⟩ := controlStateWriters i s1 u hexec
    obtain ⟨hfetched, -⟩ := fetch_movesTo hfetch
    have hcleared : s1.eiShadow = false := congrArg Control.eiShadow hfetched.control
    obtain ⟨-, -, hend, -⟩ := u.finishInstr_keeps (tStates i s1)
    exact ⟨_, step_instr hrun hfetch hexec, hend.trans ((hei hi).trans hcleared)⟩

/-- A halted cycle counts R and changes nothing else of the CPU (R455). -/
theorem State.haltCycle_frame (s : State) : Frame s s.haltCycle [.r] :=
  (s.withR_frame (refreshNext s.r)).trans (State.withPlat_frame _ _)

/-- Nobody else on the bus, a halted cycle keeps memory (R455). -/
theorem State.haltCycle_sameMem (s : State) (q : Quiet s) : SameMem s s.haltCycle := by
  intro x
  rw [State.haltCycle, Platform.endCycle_quiet _ q]
  rfl

/-- What the step of a halted CPU keeps, other masters or not (R455). -/
theorem State.haltStep_keeps (s : State) :
    (s.haltCycle.finishInstr haltTStates).halted = s.halted ∧ (s.haltCycle.finishInstr haltTStates).pc = s.pc ∧
    (s.haltCycle.finishInstr haltTStates).r = refreshNext s.r := by
  obtain ⟨-, -, -, hhalted, hpc, hr⟩ := s.haltCycle.finishInstr_keeps haltTStates
  exact ⟨hhalted, hpc, hr⟩

/-- The inputs are sampled at the end of a halted cycle (R437). -/
theorem State.haltStep_sampled (s : State) : Sampled s (s.haltCycle.finishInstr haltTStates) :=
  State.sampleInputs_sampled (s.haltCycle.tick haltTStates)

/-- A run has ended when the CPU is halted and nothing sampled or scheduled asks for anything (R499). -/
theorem State.runEnded_iff (s : State) : s.runEnded = true ↔ s.halted = true ∧ s.resetLow = false ∧
    s.nmiPending = false ∧ s.intAccepted = false ∧ s.schedule.any eventful = false := by
  simp [State.runEnded, State.eventAhead, and_assoc]

/-- A sampling point with nothing scheduled leaves every event as it was, and INT high (R437, D10). -/
theorem Sampled.uneventful {s t : State} (h : Sampled s t) (hs : s.schedule.any eventful = false)
    (hreset : s.resetLow = false) :
    t.schedule.any eventful = false ∧ t.intLow = false ∧ t.nmiPending = s.nmiPending ∧ t.resetLow = false := by
  unfold Sampled at h
  cases hsched : s.schedule with
  | nil =>
    rw [hsched] at h
    obtain ⟨htail, hint, -, hnmi, hlow⟩ := h
    exact ⟨by rw [htail]; rfl, hint, hnmi, hlow.trans hreset⟩
  | cons x rest =>
    rw [hsched] at h hs
    obtain ⟨htail, hint, -, hnmi, hlow⟩ := h
    simp only [List.any_cons, eventful, Bool.or_eq_false_iff] at hs
    obtain ⟨⟨⟨hxint, hxnmi⟩, hxreset⟩, hrest⟩ := hs
    exact ⟨htail ▸ hrest, hint.trans hxint, by rw [hnmi, hxnmi, Bool.or_false], hlow.trans hxreset⟩

/-- A run that has ended stays ended (R499). -/
theorem State.runEnded_haltStep {s : State} (h : s.runEnded = true) :
    (s.haltCycle.finishInstr haltTStates).runEnded = true ∧
    (s.haltCycle.finishInstr haltTStates).nmiPending = s.nmiPending := by
  obtain ⟨hhalted, hreset, hnmi, -, hs⟩ := s.runEnded_iff.mp h
  obtain ⟨htail, hint, hlatch, hlow⟩ := s.haltStep_sampled.uneventful hs hreset
  obtain ⟨hstill, -⟩ := s.haltStep_keeps
  exact ⟨(State.runEnded_iff _).mpr ⟨hstill.trans hhalted, hlow, hlatch.trans hnmi, by simp [State.intAccepted, hint],
    htail⟩, hlatch⟩

/-- A run to its end is that many steps, none of its states before the last having ended (R499). -/
theorem runToEnd_spec {fuel : Nat} {s t : State} (h : runToEnd fuel s = some (.next t)) : t.runEnded = true ∧
    ∃ n, n ≤ fuel ∧ runSteps n s = .next t ∧ ∀ k : Nat, k < n → ∃ u, runSteps k s = .next u ∧ u.runEnded = false := by
  -- In an ended state the run is over, after no step.
  have ended {m : Nat} {u : State} (hu : u.runEnded = true) (h : runToEnd m u = some (.next t)) : t = u := by
    rw [runToEnd_ended m u hu] at h
    cases h
    rfl
  induction fuel generalizing s with
  | zero =>
    cases hs : s.runEnded with
    | true =>
      obtain rfl := ended hs h
      exact ⟨hs, 0, Nat.le_refl 0, rfl, nofun⟩
    | false => simp [runToEnd, hs] at h
  | succ fuel ih =>
    cases hs : s.runEnded with
    | true =>
      obtain rfl := ended hs h
      exact ⟨hs, 0, Nat.zero_le _, rfl, nofun⟩
    | false =>
      cases hstep : step s with
      | next u =>
        rw [runToEnd_next fuel s u hs hstep] at h
        obtain ⟨hend, n, hn, hrun, hbefore⟩ := ih h
        refine ⟨hend, n + 1, Nat.succ_le_succ hn, (runSteps_next n s u hstep).trans hrun, fun k hk => ?_⟩
        cases k with
        | zero => exact ⟨s, rfl, hs⟩
        | succ k =>
          rw [runSteps_next k s u hstep]
          exact hbefore k (Nat.lt_of_succ_lt_succ hk)
      | fault x => simp [runToEnd, hs, hstep] at h
      | refused x => simp [runToEnd, hs, hstep] at h

/-- Settles O54: a halted step is a halted cycle and the sampling of the inputs; the run is an induction on the fuel. -/
theorem haltedStep : Obligations.HaltedStep := by
  refine ⟨fun s hreset hnmi hint hhalted q => ?_, fun s hended => ?_, fun fuel s t h => runToEnd_spec h⟩
  · obtain ⟨hstill, hpc, hr⟩ := s.haltStep_keeps
    obtain ⟨hframe, hmem⟩ := s.haltCycle.finishInstr_frame haltTStates
    exact ⟨_, step_halted hreset hnmi hint hhalted, hstill.trans hhalted, hpc, hr, s.haltStep_sampled,
      s.haltCycle_frame.trans hframe, (s.haltCycle_sameMem q).trans hmem⟩
  · obtain ⟨hhalted, hreset, hnmi, hint, -⟩ := s.runEnded_iff.mp hended
    obtain ⟨hstill, hpc, hr⟩ := s.haltStep_keeps
    obtain ⟨hended', hlatch⟩ := State.runEnded_haltStep hended
    obtain ⟨hframe, -⟩ := s.haltCycle.finishInstr_frame haltTStates
    refine ⟨_, step_halted hreset hnmi hint hhalted, hended', hstill.trans hhalted, hpc, hr, fun x hx => ?_⟩
    by_cases hx' : x = .nmiPending
    · rw [hx']
      exact congrArg Bool.toNat hlatch
    · exact s.haltCycle_frame.trans hframe x (by simp_all)

end Sys2Proof.Machine
end
